-- ==== Sys2Proof/Word.lean ====
section
/-! DEFINITION. The widths of the block's words (R6, R9, R80). Every value is unsigned (R7). -/

namespace Sys2Proof

/-- A host data word: `DATA_BITS` = 32 (R6, R62). -/
abbrev Word := BitVec 32

/-- A mosaic sample or one RGB channel: `SAMPLE_BITS` = 8 (R6). -/
abbrev Byte := BitVec 8

/-- A byte offset in the host aperture: `ADDR_BITS` = 24 (R6, R60). -/
abbrev Addr := BitVec 24

/-- The WIDTH and HEIGHT fields and the scan coordinates: `DIM_BITS` = 16 (R6, R24). -/
abbrev Dim := BitVec 16

/-- The index of a window's word slot, `addr[21:2]` (R82, R200). -/
abbrev CellIndex := BitVec 20

/-- The word part `addr[23:2]` of a byte offset. -/
abbrev WordSlot := BitVec 22

/-- A host transaction `T = (we, addr, wdata)` (R80). -/
abbrev Txn := BitVec 57

end Sys2Proof
end

