-- ==== Sys2Proof/Machine/AddressMap.lean ====
section
/-! DEFINITION. The address map of the host aperture (R61): register offsets, windows, unmapped offsets. -/

namespace Sys2Proof

/-- R26 -/
def idAddr : Addr := 0x000000#24
/-- R27 -/
def ctrlAddr : Addr := 0x000004#24
/-- R28 -/
def statusAddr : Addr := 0x000008#24
/-- R29 -/
def widthAddr : Addr := 0x00000C#24
/-- R30 -/
def heightAddr : Addr := 0x000010#24
/-- R31 -/
def layoutAddr : Addr := 0x000014#24
/-- R32 -/
def irqenAddr : Addr := 0x000018#24
/-- R33 -/
def capacityAddr : Addr := 0x00001C#24
/-- R34 -/
def erraddrAddr : Addr := 0x000020#24

/-- `a[1:0]`, 0 for an aligned offset (R63). -/
def lowBits (a : Addr) : BitVec 2 := a.extractLsb' 0 2

/-- `a[23:22]`, which selects the region (R83). -/
def regionBits (a : Addr) : BitVec 2 := a.extractLsb' 22 2

/-- The cell index `i = a[21:2]` of a window offset (R82, R200). -/
def cellIndexOf (a : Addr) : CellIndex := a.extractLsb' 2 20

/-- `a[23:2]`. -/
def wordSlotOf (a : Addr) : WordSlot := a.extractLsb' 2 22

/-- The offset `0x400000 + 4*i` of MOSAIC cell `i` (R61). -/
def mosaicAddr (i : CellIndex) : Addr := 0b01#2 ++ i ++ 0b00#2

/-- The offset `0x800000 + 4*i` of RGB cell `i` (R61). -/
def rgbAddr (i : CellIndex) : Addr := 0b10#2 ++ i ++ 0b00#2

/-- The byte offset with word part `slot` and low bits `low`. -/
def slotAddr (slot : WordSlot) (low : BitVec 2) : Addr := slot ++ low

/-- One of the nine register offsets of R84. -/
def isRegisterAddr (a : Addr) : Bool :=
  a == idAddr || a == ctrlAddr || a == statusAddr || a == widthAddr || a == heightAddr ||
    a == layoutAddr || a == irqenAddr || a == capacityAddr || a == erraddrAddr

/-- The offset lies in the MOSAIC window (R83 step 3). -/
def inMosaicWindow (a : Addr) : Bool := regionBits a == 0b01#2

/-- The offset lies in the RGB window (R83 step 4). -/
def inRgbWindow (a : Addr) : Bool := regionBits a == 0b10#2

end Sys2Proof
end

