-- ==== Sys2Proof/Syntax.lean ====
section
/-! DEFINITION. The host transactions, one constructor per row of spec/opcode_table.json (R84, R85). -/

namespace Sys2Proof

/-- A decoded host transaction with the operands of R82. Bits the block ignores (the data of a read,
reserved data bits) are not part of it (R86, log 16). -/
inductive Instr where
  /-- R171 -/
  | rdId
  /-- R172 -/
  | wrId
  /-- R173 -/
  | rdCtrl
  /-- R174: `start = wdata[0]`, `clear = wdata[1]`. -/
  | wrCtrl (start clear : Bool)
  /-- R177 -/
  | rdStatus
  /-- R178 -/
  | wrStatus
  /-- R179 -/
  | rdWidth
  /-- R180: `wdata[15:0]`. -/
  | wrWidth (width : Dim)
  /-- R181 -/
  | rdHeight
  /-- R182: `wdata[15:0]`. -/
  | wrHeight (height : Dim)
  /-- R183 -/
  | rdLayout
  /-- R184: `wdata[7:0]`. -/
  | wrLayout (layout : BitVec 8)
  /-- R185 -/
  | rdIrqen
  /-- R186: `wdata[0]`, `wdata[1]`, `wdata[2]`. -/
  | wrIrqen (doneIe errIe accIe : Bool)
  /-- R187 -/
  | rdCapacity
  /-- R188 -/
  | wrCapacity
  /-- R189 -/
  | rdErraddr
  /-- R190 -/
  | wrErraddr
  /-- R201: `i = addr[21:2]`. -/
  | rdMosaic (index : CellIndex)
  /-- R202: `i = addr[21:2]`, `wdata[7:0]`. -/
  | wrMosaic (index : CellIndex) (sample : Byte)
  /-- R203: `i = addr[21:2]`. -/
  | rdRgb (index : CellIndex)
  /-- R204: `i = addr[21:2]`. -/
  | wrRgb (index : CellIndex)
  /-- R224 with `addr[1:0] = 01`; `slot = addr[23:2]`. -/
  | errMisaligned1 (we : Bool) (slot : WordSlot)
  /-- R224 with `addr[1:0] = 10`. -/
  | errMisaligned2 (we : Bool) (slot : WordSlot)
  /-- R224 with `addr[1:0] = 11`. -/
  | errMisaligned3 (we : Bool) (slot : WordSlot)
  /-- R225: an aligned offset of no region. -/
  | errUnmapped (we : Bool) (addr : Addr)
  deriving DecidableEq, Repr

end Sys2Proof
end

