-- ==== Sys2Proof/WellFormed.lean ====
section
/-! DEFINITION. Which terms of `Instr` are transactions of the encoding. -/

namespace Sys2Proof

/-- An aligned offset that R83 steps 2 to 4 decode to no class: the offsets of ERR_UNMAPPED (R225). -/
def isUnmappedAddr (a : Addr) : Bool :=
  lowBits a == 0#2 && !isRegisterAddr a && !inMosaicWindow a && !inRgbWindow a

/-- The check of a decoded transaction. Every operand's width is in its type, so the one check left is
that ERR_UNMAPPED carries an offset of its class (R225). -/
def wellFormed : Instr → Bool
  | .errUnmapped _ addr => isUnmappedAddr addr
  | .rdId | .wrId | .rdCtrl | .wrCtrl _ _ | .rdStatus | .wrStatus | .rdWidth | .wrWidth _
  | .rdHeight | .wrHeight _ | .rdLayout | .wrLayout _ | .rdIrqen | .wrIrqen _ _ _
  | .rdCapacity | .wrCapacity | .rdErraddr | .wrErraddr | .rdMosaic _ | .wrMosaic _ _
  | .rdRgb _ | .wrRgb _ | .errMisaligned1 _ _ | .errMisaligned2 _ _ | .errMisaligned3 _ _ => true

/-- `i` is a transaction of the encoding. -/
abbrev WellFormed (i : Instr) : Prop := wellFormed i = true

end Sys2Proof
end

