-- ==== Sys2Proof/Decode.lean ====
section
/-! DEFINITION. Decoding of the 57-bit transaction word (R80 to R86), the encoder, and the opcode table
in mask/match form (R85). -/

namespace Sys2Proof

/-! ## Fields (R80, R82) -/

/-- `we = T[56]`. -/
def txnWe (t : Txn) : Bool := t.getLsbD 56

/-- `addr = T[55:32]`. -/
def txnAddr (t : Txn) : Addr := t.extractLsb' 32 24

/-- `wdata = T[31:0]`. -/
def txnData (t : Txn) : Word := t.extractLsb' 0 32

/-- `T = (we, addr, wdata)` with `we` the most significant bit (R80). -/
def packTxn (we : Bool) (addr : Addr) (wdata : Word) : Txn := BitVec.ofBool we ++ addr ++ wdata

/-! ## Decoding -/

/-- The register class of R84 for `(we, addr)`; none at an offset that is no register. -/
def decodeRegister (we : Bool) (addr : Addr) (wdata : Word) : Option Instr :=
  if addr = idAddr then some (if we then .wrId else .rdId)
  else if addr = ctrlAddr then
    some (if we then .wrCtrl (wdata.getLsbD 0) (wdata.getLsbD 1) else .rdCtrl)
  else if addr = statusAddr then some (if we then .wrStatus else .rdStatus)
  else if addr = widthAddr then
    some (if we then .wrWidth (wdata.extractLsb' 0 16) else .rdWidth)
  else if addr = heightAddr then
    some (if we then .wrHeight (wdata.extractLsb' 0 16) else .rdHeight)
  else if addr = layoutAddr then
    some (if we then .wrLayout (wdata.extractLsb' 0 8) else .rdLayout)
  else if addr = irqenAddr then
    some (if we then .wrIrqen (wdata.getLsbD 0) (wdata.getLsbD 1) (wdata.getLsbD 2) else .rdIrqen)
  else if addr = capacityAddr then some (if we then .wrCapacity else .rdCapacity)
  else if addr = erraddrAddr then some (if we then .wrErraddr else .rdErraddr)
  else none

/-- The class of an aligned transaction (R83 steps 2 to 5). -/
def decodeAligned (we : Bool) (addr : Addr) (wdata : Word) : Instr :=
  match decodeRegister we addr wdata with
  | some i => i
  | none =>
    if inMosaicWindow addr then
      if we then .wrMosaic (cellIndexOf addr) (wdata.extractLsb' 0 8) else .rdMosaic (cellIndexOf addr)
    else if inRgbWindow addr then
      if we then .wrRgb (cellIndexOf addr) else .rdRgb (cellIndexOf addr)
    else .errUnmapped we addr

/-- The class of the transaction with these fields, in the order of R83. -/
def decodeFields (we : Bool) (addr : Addr) (wdata : Word) : Instr :=
  if lowBits addr = 1#2 then .errMisaligned1 we (wordSlotOf addr)
  else if lowBits addr = 2#2 then .errMisaligned2 we (wordSlotOf addr)
  else if lowBits addr = 3#2 then .errMisaligned3 we (wordSlotOf addr)
  else decodeAligned we addr wdata

/-- The class of a transaction word. It is total: "Every one of the 2^57 words decodes to exactly one
class" (R86), and it never depends on state (R83). -/
def decode (t : Txn) : Instr := decodeFields (txnWe t) (txnAddr t) (txnData t)

/-- Why a number is no transaction word. -/
inductive DecodeError where
  /-- A bit above bit 56 is set: a transaction has 57 bits (R80). -/
  | widerThanATransaction
  deriving DecidableEq, Repr

/-- The decoder on any number: a number below 2^57 is the word with those bits, any other is rejected by
name. -/
def decodeNumber (w : Nat) : Except DecodeError Instr :=
  if w < 2 ^ 57 then .ok (decode (BitVec.ofNat 57 w)) else .error .widerThanATransaction

/-- What the decoder reads from the instruction whose low `nbits` bits are those of `w`, numbered as the
opcode table numbers them, and whose other bits are 0. A transaction is one word; it is held in no memory
and has no byte order (R64, R80, log 15). -/
def decodeTableWord (nbits w : Nat) : Option Instr :=
  match decodeNumber (w % 2 ^ nbits) with
  | .ok i => some i
  | .error _ => none

/-! ## Encoding -/

/-- The word of a transaction, with every ignored bit 0 (R80, R82, R84, R89). -/
def encode : Instr → Txn
  | .rdId => packTxn false idAddr 0
  | .wrId => packTxn true idAddr 0
  | .rdCtrl => packTxn false ctrlAddr 0
  | .wrCtrl start clear => packTxn true ctrlAddr (0#30 ++ BitVec.ofBool clear ++ BitVec.ofBool start)
  | .rdStatus => packTxn false statusAddr 0
  | .wrStatus => packTxn true statusAddr 0
  | .rdWidth => packTxn false widthAddr 0
  | .wrWidth width => packTxn true widthAddr (0#16 ++ width)
  | .rdHeight => packTxn false heightAddr 0
  | .wrHeight height => packTxn true heightAddr (0#16 ++ height)
  | .rdLayout => packTxn false layoutAddr 0
  | .wrLayout layout => packTxn true layoutAddr (0#24 ++ layout)
  | .rdIrqen => packTxn false irqenAddr 0
  | .wrIrqen doneIe errIe accIe =>
    packTxn true irqenAddr (0#29 ++ BitVec.ofBool accIe ++ BitVec.ofBool errIe ++ BitVec.ofBool doneIe)
  | .rdCapacity => packTxn false capacityAddr 0
  | .wrCapacity => packTxn true capacityAddr 0
  | .rdErraddr => packTxn false erraddrAddr 0
  | .wrErraddr => packTxn true erraddrAddr 0
  | .rdMosaic index => packTxn false (mosaicAddr index) 0
  | .wrMosaic index sample => packTxn true (mosaicAddr index) (0#24 ++ sample)
  | .rdRgb index => packTxn false (rgbAddr index) 0
  | .wrRgb index => packTxn true (rgbAddr index) 0
  | .errMisaligned1 we slot => packTxn we (slotAddr slot 1#2) 0
  | .errMisaligned2 we slot => packTxn we (slotAddr slot 2#2) 0
  | .errMisaligned3 we slot => packTxn we (slotAddr slot 3#2) 0
  | .errUnmapped we addr => packTxn we addr 0

/-- The bits of a word that its class reads: `we`, `addr` and the data fields of R82. All other bits are
ignored (R86). -/
def usedBits : Instr → Txn
  | .wrCtrl _ _ => 0x1FFFFFF00000003#57
  | .wrWidth _ => 0x1FFFFFF0000FFFF#57
  | .wrHeight _ => 0x1FFFFFF0000FFFF#57
  | .wrLayout _ => 0x1FFFFFF000000FF#57
  | .wrIrqen _ _ _ => 0x1FFFFFF00000007#57
  | .wrMosaic _ _ => 0x1FFFFFF000000FF#57
  | .rdId | .wrId | .rdCtrl | .rdStatus | .wrStatus | .rdWidth | .rdHeight | .rdLayout | .rdIrqen
  | .rdCapacity | .wrCapacity | .rdErraddr | .wrErraddr | .rdMosaic _ | .rdRgb _ | .wrRgb _
  | .errMisaligned1 _ _ | .errMisaligned2 _ _ | .errMisaligned3 _ _
  | .errUnmapped _ _ => 0x1FFFFFF00000000#57

/-! ## The opcode table in mask/match form (R85) -/

/-- The mnemonic of a transaction's row. -/
def mnemonic : Instr → String
  | .rdId => "RD_ID"
  | .wrId => "WR_ID"
  | .rdCtrl => "RD_CTRL"
  | .wrCtrl _ _ => "WR_CTRL"
  | .rdStatus => "RD_STATUS"
  | .wrStatus => "WR_STATUS"
  | .rdWidth => "RD_WIDTH"
  | .wrWidth _ => "WR_WIDTH"
  | .rdHeight => "RD_HEIGHT"
  | .wrHeight _ => "WR_HEIGHT"
  | .rdLayout => "RD_LAYOUT"
  | .wrLayout _ => "WR_LAYOUT"
  | .rdIrqen => "RD_IRQEN"
  | .wrIrqen _ _ _ => "WR_IRQEN"
  | .rdCapacity => "RD_CAPACITY"
  | .wrCapacity => "WR_CAPACITY"
  | .rdErraddr => "RD_ERRADDR"
  | .wrErraddr => "WR_ERRADDR"
  | .rdMosaic _ => "RD_MOSAIC"
  | .wrMosaic _ _ => "WR_MOSAIC"
  | .rdRgb _ => "RD_RGB"
  | .wrRgb _ => "WR_RGB"
  | .errMisaligned1 _ _ => "ERR_MISALIGNED_1"
  | .errMisaligned2 _ _ => "ERR_MISALIGNED_2"
  | .errMisaligned3 _ _ => "ERR_MISALIGNED_3"
  | .errUnmapped _ _ => "ERR_UNMAPPED"

/-- One row of the opcode table. -/
structure OpcodeRow where
  mnemonic : String
  mask : Txn
  pattern : Txn
  deriving DecidableEq, Repr

/-- A word matches a row: `T & mask = match` (R85). -/
def rowMatches (row : OpcodeRow) (t : Txn) : Bool := t &&& row.mask == row.pattern

/-- The rows of priority 1 (R85). -/
def misalignedRows : List OpcodeRow :=
  [⟨"ERR_MISALIGNED_1", 0x000000300000000#57, 0x000000100000000#57⟩,
   ⟨"ERR_MISALIGNED_2", 0x000000300000000#57, 0x000000200000000#57⟩,
   ⟨"ERR_MISALIGNED_3", 0x000000300000000#57, 0x000000300000000#57⟩]

/-- The rows of priority 2, which fix `(we, addr)` exactly (R84, R85). -/
def registerRows : List OpcodeRow :=
  [⟨"RD_ID", 0x1FFFFFF00000000#57, 0x000000000000000#57⟩,
   ⟨"WR_ID", 0x1FFFFFF00000000#57, 0x100000000000000#57⟩,
   ⟨"RD_CTRL", 0x1FFFFFF00000000#57, 0x000000400000000#57⟩,
   ⟨"WR_CTRL", 0x1FFFFFF00000000#57, 0x100000400000000#57⟩,
   ⟨"RD_STATUS", 0x1FFFFFF00000000#57, 0x000000800000000#57⟩,
   ⟨"WR_STATUS", 0x1FFFFFF00000000#57, 0x100000800000000#57⟩,
   ⟨"RD_WIDTH", 0x1FFFFFF00000000#57, 0x000000C00000000#57⟩,
   ⟨"WR_WIDTH", 0x1FFFFFF00000000#57, 0x100000C00000000#57⟩,
   ⟨"RD_HEIGHT", 0x1FFFFFF00000000#57, 0x000001000000000#57⟩,
   ⟨"WR_HEIGHT", 0x1FFFFFF00000000#57, 0x100001000000000#57⟩,
   ⟨"RD_LAYOUT", 0x1FFFFFF00000000#57, 0x000001400000000#57⟩,
   ⟨"WR_LAYOUT", 0x1FFFFFF00000000#57, 0x100001400000000#57⟩,
   ⟨"RD_IRQEN", 0x1FFFFFF00000000#57, 0x000001800000000#57⟩,
   ⟨"WR_IRQEN", 0x1FFFFFF00000000#57, 0x100001800000000#57⟩,
   ⟨"RD_CAPACITY", 0x1FFFFFF00000000#57, 0x000001C00000000#57⟩,
   ⟨"WR_CAPACITY", 0x1FFFFFF00000000#57, 0x100001C00000000#57⟩,
   ⟨"RD_ERRADDR", 0x1FFFFFF00000000#57, 0x000002000000000#57⟩,
   ⟨"WR_ERRADDR", 0x1FFFFFF00000000#57, 0x100002000000000#57⟩]

/-- The rows of priority 3 (R85). -/
def windowRows : List OpcodeRow :=
  [⟨"RD_MOSAIC", 0x1C0000300000000#57, 0x040000000000000#57⟩,
   ⟨"WR_MOSAIC", 0x1C0000300000000#57, 0x140000000000000#57⟩,
   ⟨"RD_RGB", 0x1C0000300000000#57, 0x080000000000000#57⟩,
   ⟨"WR_RGB", 0x1C0000300000000#57, 0x180000000000000#57⟩]

/-- The rows other than ERR_UNMAPPED, in order of priority (R85). -/
def classRows : List OpcodeRow := misalignedRows ++ registerRows ++ windowRows

/-- ERR_UNMAPPED matches every word and applies only when no other row does (R85). -/
def unmappedRow : OpcodeRow := ⟨"ERR_UNMAPPED", 0#57, 0#57⟩

/-! ## The spec's textual form (R89) and pseudo-instructions (R90), over words -/

/-- The target of an RD or WR (R89). -/
inductive Target where
  | id
  | ctrl
  | status
  | width
  | height
  | layout
  | irqen
  | capacity
  | erraddr
  /-- `MOSAIC[i]` -/
  | mosaic (i : CellIndex)
  /-- `RGB[i]` -/
  | rgb (i : CellIndex)
  /-- `@offset`, a raw offset -/
  | raw (offset : Addr)
  deriving DecidableEq, Repr

/-- The offset a target names (R61, R89). -/
def targetAddr : Target → Addr
  | .id => idAddr
  | .ctrl => ctrlAddr
  | .status => statusAddr
  | .width => widthAddr
  | .height => heightAddr
  | .layout => layoutAddr
  | .irqen => irqenAddr
  | .capacity => capacityAddr
  | .erraddr => erraddrAddr
  | .mosaic i => mosaicAddr i
  | .rgb i => rgbAddr i
  | .raw offset => offset

/-- `RD target`, which encodes `wdata = 0` (R89). -/
def assembleRd (t : Target) : Txn := packTxn false (targetAddr t) 0

/-- `WR target, value` (R89). -/
def assembleWr (t : Target) (value : Word) : Txn := packTxn true (targetAddr t) value

/-- The pseudo-instructions that expand to a fixed list of transactions (R90). WAIT_IDLE is an unbounded loop
of `RD STATUS` and WAIT_IRQ is no transaction (log 18). -/
inductive Pseudo where
  | start
  | clear
  | clearStart
  | config (w h l : Word)
  | load (i : Nat) (values : List Word)
  | readout (i n : Nat)
  deriving DecidableEq, Repr

/-- The expansion of LOAD: one WR MOSAIC for each value, at rising indexes (R90). -/
def expandLoad : Nat → List Word → List Txn
  | _, [] => []
  | i, v :: vs => assembleWr (.mosaic (BitVec.ofNat 20 i)) v :: expandLoad (i + 1) vs

/-- The transactions a pseudo-instruction stands for (R90). -/
def expandPseudo : Pseudo → List Txn
  | .start => [assembleWr .ctrl 1]
  | .clear => [assembleWr .ctrl 2]
  | .clearStart => [assembleWr .ctrl 3]
  | .config w h l => [assembleWr .width w, assembleWr .height h, assembleWr .layout l]
  | .load i values => expandLoad i values
  | .readout i n => (List.range n).map fun k => assembleRd (.rgb (BitVec.ofNat 20 (i + k)))

end Sys2Proof
end

