-- ==== Sys2Proof/Config.lean ====
section
/-! DEFINITION. What an implementation of the block fixes: the size of its two memories (R6, D8, U9). -/

namespace Sys2Proof

/-- The choice an implementation makes of MEM_PIXELS, as an offset above the least legal value 9.
It has no body: nothing can be proved of it but its range (log 1). -/
opaque Config.memPixelsChoice : Fin 1048568

/-- MEM_PIXELS, the number of cells in each of MOSAIC and RGB: any value from 9 to 2^20 (R6). -/
def Config.memPixels : Nat := Config.memPixelsChoice.val + 9

end Sys2Proof
end

