-- ==== Sys2Proof/Machine/State.lean ====
section
/-! DEFINITION. The state of the block (R20), plain data, and the state after reset (R251). -/

namespace Sys2Proof.Machine

open Sys2Proof

/-- What the ENGINE is doing (R22). -/
inductive Phase where
  | idle
  | clear
  | scan
  deriving DecidableEq, Repr

/-- The configuration-error code held in STATUS.ERR (R36, R226). -/
inductive ErrCode where
  | none
  | zeroDim
  | badLayout
  | capacity
  deriving DecidableEq, Repr

/-- The access-error cause held in ACC_CAUSE (R221). Codes 6 and 7 are reserved and no state holds one
(U12, log 12). -/
inductive AccCause where
  | none
  | misaligned
  | unmapped
  | readOnly
  | range
  | busy
  deriving DecidableEq, Repr

/-- An RGB cell's triple (R39). -/
structure Pixel where
  r : Byte
  g : Byte
  b : Byte
  deriving DecidableEq, Repr

/-- A memory of cells: pairs of index and value with strictly rising indexes. A cell that is not listed is
unwritten (R42); it has no value. -/
abbrev Memory (α : Type) := List (Nat × α)

/-- The kind of a response (R81). -/
inductive Resp where
  | okay
  | error
  deriving DecidableEq, Repr

/-- A transaction's response (R81). -/
structure Response where
  resp : Resp
  rdata : Word
  deriving DecidableEq, Repr

/-- What happens next, as the outside world decides it: the HOST issues a transaction, the ENGINE is given
a turn, or the RESET input acts (R67, R140, R250). -/
inductive Event where
  | transaction (t : Txn)
  | engine
  | reset
  deriving DecidableEq, Repr

/-- Why the machine stops. -/
inductive Fault where
  /-- Raised by PIXEL_STEP when its window touches a MOSAIC cell unwritten since reset (R130, R239).
  Safe: the hardware goes on with an unknown sample. -/
  | unwrittenSample
  /-- Raised by RD_MOSAIC of an unwritten cell (R201, R239). Safe: the hardware answers an unknown byte. -/
  | unwrittenMosaicRead
  /-- Raised by RD_RGB of an unwritten cell (R203, R239). Safe: the hardware answers an unknown pixel. -/
  | unwrittenRgbRead
  /-- Raised by an ENGINE step whose pixel is not interior or whose RGB cell does not exist. No run
  reaches such a state (R122, R141, R148), and no rule gives it an effect. Safe (log 8). -/
  | engineOutOfBounds
  deriving DecidableEq, Repr

/-- Why an instruction has no meaning. -/
inductive Refusal where
  /-- Raised by `exec` for a transaction class that has no meaning in the model. Safe: the model stops
  where the hardware goes on. No class of the table is left so. -/
  | notModelled (mnemonic : String)
  deriving DecidableEq, Repr

/-- The state record of R20, with the parameter MEM_PIXELS of this machine (log 1), the events to come
(log 3) and the responses given (R264, log 5). -/
structure State where
  /-- MEM_PIXELS (R6): fixed for a machine, written by no step. -/
  memPixels : Nat
  /-- WIDTH_R (R29). -/
  widthR : Dim
  /-- HEIGHT_R (R30). -/
  heightR : Dim
  /-- LAYOUT_R (R31). -/
  layoutR : BitVec 8
  /-- IRQEN_R.DONE_IE (R32). -/
  doneIe : Bool
  /-- IRQEN_R.ERR_IE (R32). -/
  errIe : Bool
  /-- IRQEN_R.ACC_IE (R32). -/
  accIe : Bool
  /-- DONE (R35). -/
  done : Bool
  /-- ERR (R36). -/
  err : ErrCode
  /-- ACCERR (R37). -/
  accErr : Bool
  /-- ACC_CAUSE (R37). -/
  accCause : AccCause
  /-- ERRADDR_R (R34). -/
  errAddr : Addr
  /-- ERRWE (R34). -/
  errWe : Bool
  /-- PHASE (R22). -/
  phase : Phase
  /-- CIDX (R23). -/
  cidx : Nat
  /-- SY (R24). -/
  sy : Dim
  /-- SX (R24). -/
  sx : Dim
  /-- MOSAIC (R38). -/
  mosaic : Memory Byte
  /-- RGB (R39). -/
  rgb : Memory Pixel
  /-- The events to come, the next one first; when none is left the ENGINE has its turns (log 3). -/
  events : List Event
  /-- The responses given, the oldest first (R264). -/
  responses : List Response
  deriving DecidableEq, Repr

/-- The state after reset (R251, R253): every register field 0, PHASE idle, every cell unwritten. -/
def State.reset : State where
  memPixels := Config.memPixels
  widthR := 0
  heightR := 0
  layoutR := 0
  doneIe := false
  errIe := false
  accIe := false
  done := false
  err := .none
  accErr := false
  accCause := .none
  errAddr := 0
  errWe := false
  phase := .idle
  cidx := 0
  sy := 0
  sx := 0
  mosaic := []
  rgb := []
  events := []
  responses := []

end Sys2Proof.Machine
end

