-- ==== Sys2Proof/Machine/Flags.lean ====
section
/-! DEFINITION. Every status value the block computes: BUSY, the codes, ConfigCheck, STATUS, IRQEN,
ERRADDR and irq. -/

namespace Sys2Proof.Machine

open Sys2Proof

/-- `BUSY = (PHASE != IDLE)` (R25). -/
def busy (s : State) : Bool :=
  match s.phase with
  | .idle => false
  | .clear => true
  | .scan => true

/-- The 2-bit code of STATUS.ERR (R36). -/
def errCode : ErrCode → BitVec 2
  | .none => 0
  | .zeroDim => 1
  | .badLayout => 2
  | .capacity => 3

/-- The 3-bit code of ACC_CAUSE (R221). -/
def causeCode : AccCause → BitVec 3
  | .none => 0
  | .misaligned => 1
  | .unmapped => 2
  | .readOnly => 3
  | .range => 4
  | .busy => 5

/-- The number of pixels `WIDTH_R * HEIGHT_R`, an exact product (R227). -/
abbrev imagePixels (s : State) : Nat := s.widthR.toNat * s.heightR.toNat

/-- ConfigCheck: the first code that applies, in the priority ZERO_DIM, BAD_LAYOUT, CAPACITY (R227). -/
def configCheck (s : State) : ErrCode :=
  if s.widthR = 0 ∨ s.heightR = 0 then .zeroDim
  else if 3 < s.layoutR.toNat then .badLayout
  else if s.memPixels < imagePixels s then .capacity
  else .none

/-- STATUS (R28). -/
def statusWord (s : State) : Word :=
  0#21 ++ causeCode s.accCause ++ 0#2 ++ errCode s.err ++ 0#1 ++ BitVec.ofBool s.accErr ++
    BitVec.ofBool s.done ++ BitVec.ofBool (busy s)

/-- IRQEN (R32, R185). -/
def irqenWord (s : State) : Word :=
  0#29 ++ BitVec.ofBool s.accIe ++ BitVec.ofBool s.errIe ++ BitVec.ofBool s.doneIe

/-- ERRADDR (R34, R189). -/
def erraddrWord (s : State) : Word := 0#7 ++ BitVec.ofBool s.errWe ++ s.errAddr

/-- The interrupt output, a level (R43). -/
def irq (s : State) : Bool :=
  (s.doneIe && s.done) || (s.errIe && decide (s.err ≠ .none)) || (s.accIe && s.accErr)

end Sys2Proof.Machine
end

