-- ==== Sys2Proof/Machine/Operands.lean ====
section
/-! DEFINITION. Operand values: the constants and zero-extended fields a read answers, and the packing of
samples and pixels in a data word (R64 to R66). The fields of a transaction are taken apart in
Sys2Proof/Decode.lean (R82). -/

namespace Sys2Proof.Machine

open Sys2Proof

/-- ID: TAG0 'B', TAG1 'D', TAG2 'M', VERSION 1 (R26). -/
def idWord : Word := 0x42#8 ++ 0x44#8 ++ 0x4D#8 ++ 0x01#8

/-- CTRL reads as 0 at all times (R27). -/
def ctrlWord : Word := 0

/-- `zext_32(WIDTH_R)` (R179). -/
def widthWord (s : State) : Word := s.widthR.setWidth 32

/-- `zext_32(HEIGHT_R)` (R181). -/
def heightWord (s : State) : Word := s.heightR.setWidth 32

/-- `zext_32(LAYOUT_R)` (R183). -/
def layoutWord (s : State) : Word := s.layoutR.setWidth 32

/-- CAPACITY: MEM_PIXELS in bits 20:0 (R33, R187). -/
def capacityWord (s : State) : Word := (BitVec.ofNat 21 s.memPixels).setWidth 32

/-- A sample as read through the MOSAIC window (R65). -/
def sampleWord (v : Byte) : Word := v.setWidth 32

/-- A pixel as read through the RGB window: r in bits 7:0, g in 15:8, b in 23:16 (R66). -/
def pixelWord (p : Pixel) : Word := 0#8 ++ p.b ++ p.g ++ p.r

/-- The cell number of a window index (R200). -/
abbrev cellNumber (i : CellIndex) : Nat := i.toNat

/-- The index names a cell of this block; otherwise the access is out of RANGE (R206). -/
def cellExists (s : State) (i : CellIndex) : Bool := decide (cellNumber i < s.memPixels)

/-- The pixel an output cell is cleared to (R141). -/
def blackPixel : Pixel := ⟨0, 0, 0⟩

end Sys2Proof.Machine
end

