-- ==== Sys2Proof/Machine/Ops.lean ====
section
/-! DEFINITION. The named operations over memories and registers that the transactions and the ENGINE
share: cells, responses, taking an access error and clearing it, START, Finish, reset. -/

namespace Sys2Proof.Machine

open Sys2Proof Host

/-! ## Memories -/

/-- The value of a listed cell; none for an unwritten one (R42). -/
def Memory.read {α : Type} : Memory α → Nat → Option α
  | [], _ => none
  | (j, v) :: m, i => if j = i then some v else Memory.read m i

/-- Write a cell, keeping the indexes strictly rising. -/
def Memory.write {α : Type} : Memory α → Nat → α → Memory α
  | [], i, v => [(i, v)]
  | (j, w) :: m, i, v =>
    if i < j then (i, v) :: (j, w) :: m
    else if i = j then (i, v) :: m
    else (j, w) :: Memory.write m i v

/-- Every listed index is at least `lo`, and they rise strictly. -/
def Memory.risingFrom {α : Type} : Nat → Memory α → Bool
  | _, [] => true
  | lo, (j, _) :: m => decide (lo ≤ j) && Memory.risingFrom (j + 1) m

/-- The canonical form: strictly rising indexes. An unlisted cell has no value, so no entry can be
redundant. -/
def Memory.wf {α : Type} (m : Memory α) : Bool := Memory.risingFrom 0 m

/-- Every listed cell is one of the `n` cells of the memory. -/
def Memory.below {α : Type} (n : Nat) (m : Memory α) : Bool := m.all fun c => decide (c.1 < n)

/-- `MosaicRead(i)`: the sample of cell `i`; none if the cell is unwritten or is not one of the MEM_PIXELS
cells (R38, R42). -/
def mosaicRead (s : State) (i : Nat) : Option Byte :=
  if i < s.memPixels then Memory.read s.mosaic i else none

/-- `MosaicWrite(i, v)` (R38, R202). -/
def mosaicWrite (i : Nat) (v : Byte) (s : State) : State :=
  { s with mosaic := Memory.write s.mosaic i v }

/-- `RgbRead(i)` (R39). -/
def rgbRead (s : State) (i : Nat) : Option Pixel :=
  if i < s.memPixels then Memory.read s.rgb i else none

/-- `RgbWrite(i, p)` (R39). -/
def rgbWrite (i : Nat) (p : Pixel) (s : State) : State :=
  { s with rgb := Memory.write s.rgb i p }

/-! ## Responses (R81) -/

/-- Give the transaction its response. -/
def respond (resp : Resp) (rdata : Word) (s : State) : State :=
  { s with responses := s.responses ++ [⟨resp, rdata⟩] }

/-- `respond(OKAY, rdata)`, the end of a transaction that is not refused. -/
def answerOkay (rdata : Word) (s : State) : Outcome State Fault Refusal := .next (respond .okay rdata s)

/-! ## Taking an access error, and the return from it -/

/-- The first-error capture: only the first access error since the last CLEAR or reset is recorded
(R223, R34, R37). -/
def recordAccessError (cause : AccCause) (we : Bool) (addr : Addr) (s : State) : State :=
  if s.accErr then s
  else { s with accErr := true, accCause := cause, errAddr := addr, errWe := we }

/-- `raise AccessError(cause)` for the transaction `(we, addr)`: record the first error and respond ERROR.
The transaction's own effect does not happen (R223, R232). -/
def raiseAccessError (cause : AccCause) (we : Bool) (addr : Addr) (s : State) :
    Outcome State Fault Refusal :=
  .next (respond .error 0 (recordAccessError cause we addr s))

/-- DoClear, the return from a completion or an error (R175, R233). -/
def doClear (s : State) : State :=
  { s with done := false, err := .none, accErr := false, accCause := .none, errAddr := 0,
           errWe := false }

/-! ## Operations -/

/-- DoStart: validate the configuration, then reject it or begin an operation (R176, R228). -/
def doStart (s : State) : State :=
  match configCheck s with
  | .none => { s with done := false, err := .none, phase := .clear, cidx := 0 }
  | code => { s with done := false, err := code }

/-- Finish: the operation ends (R149). -/
def finish (s : State) : State := { s with phase := .idle, done := true }

/-- The RESET event: every register and every memory cell takes its reset value and an operation in
progress ends. The parameter, the events to come and the responses given are not the block's state
(R250, R251, R253, R261, log 6). -/
def resetBlock (s : State) : State :=
  { State.reset with memPixels := s.memPixels, events := s.events, responses := s.responses }

/-! ## Events -/

/-- What happens next; the ENGINE has its turns once the outside world has nothing more to do, which is
the fairness of R140 (log 3). -/
def nextEvent (s : State) : Event := s.events.headD .engine

/-- The state once the next event has been taken. -/
def dropEvent (s : State) : State := { s with events := s.events.tail }

end Sys2Proof.Machine
end

