-- ==== Sys2Proof/Machine/Errors.lean ====
section
/-! DEFINITION. The classes of illegal transactions: ERR_MISALIGNED (R224) and ERR_UNMAPPED (R225). -/

namespace Sys2Proof.Machine

open Sys2Proof Host

/-- ERR_MISALIGNED with `addr[1:0] = 01` (R224). -/
def execErrMisaligned1 (we : Bool) (slot : WordSlot) (s : State) : Outcome State Fault Refusal :=
  raiseAccessError .misaligned we (slotAddr slot 1#2) s

/-- ERR_MISALIGNED with `addr[1:0] = 10` (R224). -/
def execErrMisaligned2 (we : Bool) (slot : WordSlot) (s : State) : Outcome State Fault Refusal :=
  raiseAccessError .misaligned we (slotAddr slot 2#2) s

/-- ERR_MISALIGNED with `addr[1:0] = 11` (R224). -/
def execErrMisaligned3 (we : Bool) (slot : WordSlot) (s : State) : Outcome State Fault Refusal :=
  raiseAccessError .misaligned we (slotAddr slot 3#2) s

/-- ERR_UNMAPPED (R225). -/
def execErrUnmapped (we : Bool) (addr : Addr) (s : State) : Outcome State Fault Refusal :=
  raiseAccessError .unmapped we addr s

end Sys2Proof.Machine
end

