-- ==== Sys2Proof/Machine/Registers.lean ====
section
/-! DEFINITION. The register transactions (43_host_registers.md), one definition each. -/

namespace Sys2Proof.Machine

open Sys2Proof Host

/-- The end of a write to a register that is frozen during an operation: refused with BUSY while an
operation is in progress, else stored (R170, R258). -/
def writeFrozen (addr : Addr) (store : State → State) (s : State) : Outcome State Fault Refusal :=
  if busy s then raiseAccessError .busy true addr s else answerOkay 0 (store s)

/-! ## ID -/

/-- RD_ID (R171). -/
def execRdId (s : State) : Outcome State Fault Refusal := answerOkay idWord s

/-- WR_ID (R172). -/
def execWrId (s : State) : Outcome State Fault Refusal := raiseAccessError .readOnly true idAddr s

/-! ## CTRL -/

/-- RD_CTRL (R173). -/
def execRdCtrl (s : State) : Outcome State Fault Refusal := answerOkay ctrlWord s

/-- WR_CTRL: a START while an operation is in progress is refused and nothing else happens; otherwise CLEAR
acts first, then START (R174). -/
def execWrCtrl (start clear : Bool) (s : State) : Outcome State Fault Refusal :=
  if start && busy s then raiseAccessError .busy true ctrlAddr s
  else
    let cleared := if clear then doClear s else s
    answerOkay 0 (if start then doStart cleared else cleared)

/-! ## STATUS -/

/-- RD_STATUS (R177). -/
def execRdStatus (s : State) : Outcome State Fault Refusal := answerOkay (statusWord s) s

/-- WR_STATUS (R178). -/
def execWrStatus (s : State) : Outcome State Fault Refusal :=
  raiseAccessError .readOnly true statusAddr s

/-! ## WIDTH, HEIGHT, LAYOUT -/

/-- RD_WIDTH (R179). -/
def execRdWidth (s : State) : Outcome State Fault Refusal := answerOkay (widthWord s) s

/-- WR_WIDTH (R180). -/
def execWrWidth (width : Dim) (s : State) : Outcome State Fault Refusal :=
  writeFrozen widthAddr (fun t => { t with widthR := width }) s

/-- RD_HEIGHT (R181). -/
def execRdHeight (s : State) : Outcome State Fault Refusal := answerOkay (heightWord s) s

/-- WR_HEIGHT (R182). -/
def execWrHeight (height : Dim) (s : State) : Outcome State Fault Refusal :=
  writeFrozen heightAddr (fun t => { t with heightR := height }) s

/-- RD_LAYOUT (R183). -/
def execRdLayout (s : State) : Outcome State Fault Refusal := answerOkay (layoutWord s) s

/-- WR_LAYOUT: any code is stored; START rejects a code above 3 (R184, R31). -/
def execWrLayout (layout : BitVec 8) (s : State) : Outcome State Fault Refusal :=
  writeFrozen layoutAddr (fun t => { t with layoutR := layout }) s

/-! ## IRQEN -/

/-- RD_IRQEN (R185). -/
def execRdIrqen (s : State) : Outcome State Fault Refusal := answerOkay (irqenWord s) s

/-- WR_IRQEN: allowed in every phase (R186). -/
def execWrIrqen (doneIe errIe accIe : Bool) (s : State) : Outcome State Fault Refusal :=
  answerOkay 0 { s with doneIe := doneIe, errIe := errIe, accIe := accIe }

/-! ## CAPACITY and ERRADDR -/

/-- RD_CAPACITY (R187). -/
def execRdCapacity (s : State) : Outcome State Fault Refusal := answerOkay (capacityWord s) s

/-- WR_CAPACITY (R188). -/
def execWrCapacity (s : State) : Outcome State Fault Refusal :=
  raiseAccessError .readOnly true capacityAddr s

/-- RD_ERRADDR (R189). -/
def execRdErraddr (s : State) : Outcome State Fault Refusal := answerOkay (erraddrWord s) s

/-- WR_ERRADDR (R190). -/
def execWrErraddr (s : State) : Outcome State Fault Refusal :=
  raiseAccessError .readOnly true erraddrAddr s

end Sys2Proof.Machine
end

