-- ==== Sys2Proof/Machine/Windows.lean ====
section
/-! DEFINITION. The window transactions (44_host_windows.md). -/

namespace Sys2Proof.Machine

open Sys2Proof Host

/-- The refusal checks a window access makes before its effect: RANGE first, then BUSY (R200, R205, R206,
R222). -/
def windowAccess (we : Bool) (addr : Addr) (index : CellIndex)
    (effect : State → Outcome State Fault Refusal) (s : State) : Outcome State Fault Refusal :=
  if cellExists s index then
    if busy s then raiseAccessError .busy we addr s else effect s
  else raiseAccessError .range we addr s

/-- RD_MOSAIC (R201). Reading an unwritten cell is a model fault (R239, log 2). -/
def execRdMosaic (index : CellIndex) (s : State) : Outcome State Fault Refusal :=
  windowAccess false (mosaicAddr index) index
    (fun t =>
      match mosaicRead t (cellNumber index) with
      | some v => answerOkay (sampleWord v) t
      | none => .fault .unwrittenMosaicRead) s

/-- WR_MOSAIC (R202). -/
def execWrMosaic (index : CellIndex) (sample : Byte) (s : State) : Outcome State Fault Refusal :=
  windowAccess true (mosaicAddr index) index
    (fun t => answerOkay 0 (mosaicWrite (cellNumber index) sample t)) s

/-- RD_RGB (R203). Reading an unwritten cell is a model fault (R239, log 2). -/
def execRdRgb (index : CellIndex) (s : State) : Outcome State Fault Refusal :=
  windowAccess false (rgbAddr index) index
    (fun t =>
      match rgbRead t (cellNumber index) with
      | some p => answerOkay (pixelWord p) t
      | none => .fault .unwrittenRgbRead) s

/-- WR_RGB: READ_ONLY whatever the index and the phase (R204, R222). -/
def execWrRgb (index : CellIndex) (s : State) : Outcome State Fault Refusal :=
  raiseAccessError .readOnly true (rgbAddr index) s

end Sys2Proof.Machine
end

