-- ==== Sys2Proof/Machine/Dispatch.lean ====
section
/-! DEFINITION. The meaning of each transaction class: one arm per row of the opcode table. -/

namespace Sys2Proof.Machine

open Sys2Proof

/-- The HOST's step: the effect and the response of one transaction (R67, R81). -/
def exec (i : Instr) (s : State) : Host.Outcome State Fault Refusal :=
  match i with
  | .rdId => Sys2Proof.Machine.execRdId s
  | .wrId => Sys2Proof.Machine.execWrId s
  | .rdCtrl => Sys2Proof.Machine.execRdCtrl s
  | .wrCtrl start clear => Sys2Proof.Machine.execWrCtrl start clear s
  | .rdStatus => Sys2Proof.Machine.execRdStatus s
  | .wrStatus => Sys2Proof.Machine.execWrStatus s
  | .rdWidth => Sys2Proof.Machine.execRdWidth s
  | .wrWidth width => Sys2Proof.Machine.execWrWidth width s
  | .rdHeight => Sys2Proof.Machine.execRdHeight s
  | .wrHeight height => Sys2Proof.Machine.execWrHeight height s
  | .rdLayout => Sys2Proof.Machine.execRdLayout s
  | .wrLayout layout => Sys2Proof.Machine.execWrLayout layout s
  | .rdIrqen => Sys2Proof.Machine.execRdIrqen s
  | .wrIrqen doneIe errIe accIe => Sys2Proof.Machine.execWrIrqen doneIe errIe accIe s
  | .rdCapacity => Sys2Proof.Machine.execRdCapacity s
  | .wrCapacity => Sys2Proof.Machine.execWrCapacity s
  | .rdErraddr => Sys2Proof.Machine.execRdErraddr s
  | .wrErraddr => Sys2Proof.Machine.execWrErraddr s
  | .rdMosaic index => Sys2Proof.Machine.execRdMosaic index s
  | .wrMosaic index sample => Sys2Proof.Machine.execWrMosaic index sample s
  | .rdRgb index => Sys2Proof.Machine.execRdRgb index s
  | .wrRgb index => Sys2Proof.Machine.execWrRgb index s
  | .errMisaligned1 we slot => Sys2Proof.Machine.execErrMisaligned1 we slot s
  | .errMisaligned2 we slot => Sys2Proof.Machine.execErrMisaligned2 we slot s
  | .errMisaligned3 we slot => Sys2Proof.Machine.execErrMisaligned3 we slot s
  | .errUnmapped we addr => Sys2Proof.Machine.execErrUnmapped we addr s

end Sys2Proof.Machine
end

