-- ==== Sys2Proof/Machine/Lut.lean ====
section
/-! DEFINITION. pattern_rule_lut: the constant role table (R102) and channel-source table (R107). -/

namespace Sys2Proof.Machine

open Sys2Proof

/-- The colour role of a pixel (R101). -/
inductive Role where
  | r
  | gr
  | gb
  | b
  deriving DecidableEq, Repr

/-- A channel's source among the sampler's values (R107). -/
inductive Source where
  | cen
  | orth4
  | diag4
  | horz2
  | vert2
  deriving DecidableEq, Repr

/-- The sources of the three output channels. -/
structure ChannelSources where
  r : Source
  g : Source
  b : Source
  deriving DecidableEq, Repr

/-- The colours a cell can sample (R101). -/
inductive Colour where
  | red
  | green
  | blue
  deriving DecidableEq, Repr

/-- The native channel of a role (R101). -/
def nativeColour : Role → Colour
  | .r => .red
  | .gr => .green
  | .gb => .green
  | .b => .blue

/-- The 2-bit role code (R101). -/
def roleCode : Role → BitVec 2
  | .r => 0
  | .gr => 1
  | .gb => 2
  | .b => 3

/-- `lut_index = (layout[1:0], py, px)` (R102). -/
def lutIndex (layout : BitVec 2) (py px : Bool) : BitVec 4 :=
  layout ++ BitVec.ofBool py ++ BitVec.ofBool px

/-- The role ROM, indexed by `lut_index` 0 to 15: RGGB, BGGR, GRBG, GBRG, each read row-major (R102). The
GRBG and GBRG rows rest on the row-major reading of a layout's name (D23, G1, log 9). -/
def roleRom : List Role :=
  [.r, .gr, .gb, .b] ++ [.b, .gb, .gr, .r] ++ [.gr, .r, .b, .gb] ++ [.gb, .b, .r, .gr]

/-- RoleTable: total over its 4-bit index (R102, R106). -/
def roleTable (layout : BitVec 2) (py px : Bool) : Role :=
  roleRom.get ⟨(lutIndex layout py px).toNat, (lutIndex layout py px).isLt⟩

/-- The channel-source table (R107). -/
def channelSources : Role → ChannelSources
  | .r => ⟨.cen, .orth4, .diag4⟩
  | .gr => ⟨.horz2, .cen, .vert2⟩
  | .gb => ⟨.vert2, .cen, .horz2⟩
  | .b => ⟨.diag4, .orth4, .cen⟩

/-- The parity of a coordinate, its bit 0 (R10). -/
def parity (n : Nat) : Bool := n.testBit 0

/-- The role of pixel `(y, x)` under LAYOUT_R, from `layout[1:0]` and the parities (R100, R143). -/
def roleAt (layoutR : BitVec 8) (y x : Nat) : Role :=
  roleTable (layoutR.extractLsb' 0 2) (parity y) (parity x)

end Sys2Proof.Machine
end

