-- ==== Sys2Proof/Machine/Sampler.lean ====
section
/-! DEFINITION. neighborhood_sampler: the 3×3 window of an interior pixel and its floor averages
(R120 to R131). -/

namespace Sys2Proof.Machine

open Sys2Proof

/-- The nine samples around a pixel (R11, R121). -/
structure Window where
  nw : Byte
  n : Byte
  ne : Byte
  w : Byte
  c : Byte
  e : Byte
  sw : Byte
  s : Byte
  se : Byte
  deriving DecidableEq, Repr

/-- The row-major cell index `y*W + x` (R9, R120). -/
def pixelIndex (s : State) (y x : Nat) : Nat := y * s.widthR.toNat + x

/-- `S(y, x)` (R9, R120). -/
def sampleAt (s : State) (y x : Nat) : Option Byte := mosaicRead s (pixelIndex s y x)

/-- The window of pixel `(y, x)`; all nine samples are fetched, whatever the role, and there is none if one
of them is unwritten (R121, R130). It is asked for interior pixels only, so `y` and `x` are at least 1
(R122). -/
def fetchWindow (s : State) (y x : Nat) : Option Window := do
  let nw ← sampleAt s (y - 1) (x - 1)
  let n ← sampleAt s (y - 1) x
  let ne ← sampleAt s (y - 1) (x + 1)
  let w ← sampleAt s y (x - 1)
  let c ← sampleAt s y x
  let e ← sampleAt s y (x + 1)
  let sw ← sampleAt s (y + 1) (x - 1)
  let so ← sampleAt s (y + 1) x
  let se ← sampleAt s (y + 1) (x + 1)
  return ⟨nw, n, ne, w, c, e, sw, so, se⟩

/-- The floor-average of four samples: the 10-bit sum shifted right by 2, never rounded (R123, R128, R129). -/
def average4 (a b c d : Byte) : Byte :=
  ((a.setWidth 10 + b.setWidth 10 + c.setWidth 10 + d.setWidth 10) >>> 2).setWidth 8

/-- The floor-average of two samples: the 9-bit sum shifted right by 1, never rounded (R125, R128, R129). -/
def average2 (a b : Byte) : Byte := ((a.setWidth 9 + b.setWidth 9) >>> 1).setWidth 8

/-- ORTH4 (R123). -/
def orth4 (win : Window) : Byte := average4 win.n win.s win.w win.e

/-- DIAG4 (R124). -/
def diag4 (win : Window) : Byte := average4 win.nw win.ne win.sw win.se

/-- HORZ2 (R125). -/
def horz2 (win : Window) : Byte := average2 win.w win.e

/-- VERT2 (R126). -/
def vert2 (win : Window) : Byte := average2 win.n win.s

/-- CEN (R127). -/
def cen (win : Window) : Byte := win.c

/-- The sampler's value of a source (R107). -/
def sourceValue (win : Window) : Source → Byte
  | .cen => cen win
  | .orth4 => orth4 win
  | .diag4 => diag4 win
  | .horz2 => horz2 win
  | .vert2 => vert2 win

/-- Select: the pixel of a role, each channel from its source (R107, R144 to R147). -/
def selectPixel (role : Role) (win : Window) : Pixel :=
  ⟨sourceValue win (channelSources role).r, sourceValue win (channelSources role).g,
   sourceValue win (channelSources role).b⟩

end Sys2Proof.Machine
end

