-- ==== Sys2Proof/Machine/Engine.lean ====
section
/-! DEFINITION. The ENGINE's steps: CLEAR_STEP with HandOver, PIXEL_STEP with Advance (R140 to R149). -/

namespace Sys2Proof.Machine

open Sys2Proof Host

/-- HandOver: to the scan at (1,1), or straight to Finish where the interior is empty (R142). -/
def handOver (s : State) : State :=
  if 3 ≤ s.widthR.toNat ∧ 3 ≤ s.heightR.toNat then { s with phase := .scan, sy := 1, sx := 1 }
  else finish s

/-- CIDX goes to the next cell, and the last one hands over (R141). -/
def nextCell (s : State) : State :=
  let t := { s with cidx := s.cidx + 1 }
  if t.cidx = imagePixels t then handOver t else t

/-- Advance: the next interior pixel in row-major order, or Finish (R148). -/
def advance (s : State) : State :=
  if s.sx.toNat < s.widthR.toNat - 2 then { s with sx := s.sx + 1 }
  else if s.sy.toNat < s.heightR.toNat - 2 then { s with sx := 1, sy := s.sy + 1 }
  else finish s

/-- Write one RGB cell and go on with `next`. A cell that does not exist stops the machine: no run gets
there (R141, R76, log 8). -/
def storePixel (i : Nat) (p : Pixel) (next : State → State) (s : State) :
    Outcome State Fault Refusal :=
  if i < s.memPixels then .next (next (rgbWrite i p s)) else .fault .engineOutOfBounds

/-- CLEAR_STEP (R141). -/
def clearStep (s : State) : Outcome State Fault Refusal := storePixel s.cidx blackPixel nextCell s

/-- Pixel `(y, x)` is interior: `1 <= x <= W-2` and `1 <= y <= H-2` (R10). -/
def isInterior (s : State) (y x : Nat) : Bool :=
  decide (1 ≤ y) && decide (y + 2 ≤ s.heightR.toNat) && decide (1 ≤ x) &&
    decide (x + 2 ≤ s.widthR.toNat)

/-- Pixel(L, M, y, x): the result for an interior pixel, from the samples around it; none if one of the nine
is unwritten (R143, R151). -/
def pixelAt (s : State) (y x : Nat) : Option Pixel :=
  (fetchWindow s y x).map (selectPixel (roleAt s.layoutR y x))

/-- PIXEL_STEP (R143). The sampler is asked for interior pixels only (R122, log 8). -/
def pixelStep (s : State) : Outcome State Fault Refusal :=
  if isInterior s s.sy.toNat s.sx.toNat then
    match pixelAt s s.sy.toNat s.sx.toNat with
    | some p => storePixel (pixelIndex s s.sy.toNat s.sx.toNat) p advance s
    | none => .fault .unwrittenSample
  else .fault .engineOutOfBounds

/-- A turn of the ENGINE: its one enabled step; while idle it has none and nothing changes (R140, R252). -/
def engineTurn (s : State) : Outcome State Fault Refusal :=
  match s.phase with
  | .idle => .next s
  | .clear => clearStep s
  | .scan => pixelStep s

end Sys2Proof.Machine
end

