-- ==== Sys2Proof/Machine/Step.lean ====
section
/-! DEFINITION. One step of the block: a transaction of the HOST, a turn of the ENGINE, or a reset. -/

namespace Sys2Proof.Machine

open Sys2Proof

/-- Take the next event (R67, R70, R140, R250). -/
def step (s : State) : Host.Outcome State Fault Refusal :=
  match nextEvent s with
  | .transaction t => exec (decode t) (dropEvent s)
  | .engine => engineTurn (dropEvent s)
  | .reset => .next (resetBlock (dropEvent s))

/-- `s` with the HOST issuing the transaction whose low `nbits` bits are those of `w` as its next one. The
block fetches nothing: a transaction comes from outside (R73, log 7). -/
def State.withFetchWord (s : State) (nbits w : Nat) : State :=
  { s with events := .transaction (BitVec.ofNat 57 (w % 2 ^ nbits)) :: s.events }

end Sys2Proof.Machine
end

