-- ==== Sys2Proof/Safety.lean ====
section
/-! DEFINITION. The terms claims use: launch premises (R255), the invariant of the block, the image an
operation leaves (R151), the work left of an operation (R154), the end of a run (R264). -/

namespace Sys2Proof.Machine

open Sys2Proof

/-! ## Launch premises (R255) -/

/-- CleanIdle: PHASE = IDLE. A state has raised no model fault, since a model fault ends the run with no
state (R239, log 14). -/
abbrev CleanIdle (s : State) : Prop := s.phase = .idle

/-- ConfigValid: 1 <= W, 1 <= H, W*H <= MEM_PIXELS and LAYOUT_R <= 3. -/
abbrev ConfigValid (s : State) : Prop :=
  1 ≤ s.widthR.toNat ∧ 1 ≤ s.heightR.toNat ∧ s.widthR.toNat * s.heightR.toNat ≤ s.memPixels ∧
    s.layoutR.toNat ≤ 3

/-- MosaicLoaded: every MOSAIC cell 0 to W*H-1 is written. -/
abbrev MosaicLoaded (s : State) : Prop := ∀ i < imagePixels s, (mosaicRead s i).isSome = true

/-! ## The effect of an access error, written out (R223) -/

/-- The state after the transaction `(we, addr)` was refused with `cause`: the first error is recorded, the
response is ERROR with rdata 0, and nothing else changes (R223). -/
def refusedState (cause : AccCause) (we : Bool) (addr : Addr) (s : State) : State :=
  { s with
    accErr := true
    accCause := if s.accErr then s.accCause else cause
    errAddr := if s.accErr then s.errAddr else addr
    errWe := if s.accErr then s.errWe else we
    responses := s.responses ++ [⟨.error, 0#32⟩] }

/-- The state after a transaction that responds OKAY with `rdata` and changes nothing else (R170). -/
def answeredState (rdata : Word) (s : State) : State :=
  { s with responses := s.responses ++ [⟨.okay, rdata⟩] }

/-- The records that CLEAR clears, cleared (R175). -/
def clearedState (s : State) : State :=
  { s with done := false, err := .none, accErr := false, accCause := .none, errAddr := 0#24,
           errWe := false }

/-- The transaction writes: `we` of its word (R80). -/
def isWrite (i : Instr) : Bool := txnWe (encode i)

/-- The byte offset of the transaction's word (R80). -/
def offsetOf (i : Instr) : Addr := txnAddr (encode i)

/-! ## The window and the swap of red and blue -/

/-- `win` holds the nine samples around `(y, x)`: the MOSAIC cells at their row-major indexes `y*W + x`
(R9, R38, R120, R121). -/
abbrev IsWindow (s : State) (y x : Nat) (win : Window) : Prop :=
  mosaicRead s ((y - 1) * s.widthR.toNat + (x - 1)) = some win.nw ∧
    mosaicRead s ((y - 1) * s.widthR.toNat + x) = some win.n ∧
    mosaicRead s ((y - 1) * s.widthR.toNat + (x + 1)) = some win.ne ∧
    mosaicRead s (y * s.widthR.toNat + (x - 1)) = some win.w ∧
    mosaicRead s (y * s.widthR.toNat + x) = some win.c ∧
    mosaicRead s (y * s.widthR.toNat + (x + 1)) = some win.e ∧
    mosaicRead s ((y + 1) * s.widthR.toNat + (x - 1)) = some win.sw ∧
    mosaicRead s ((y + 1) * s.widthR.toNat + x) = some win.s ∧
    mosaicRead s ((y + 1) * s.widthR.toNat + (x + 1)) = some win.se

/-- One of the nine MOSAIC cells around `(y, x)` is unwritten (R120, R130). -/
abbrev WindowHasUnwritten (s : State) (y x : Nat) : Prop :=
  ∃ dy < 3, ∃ dx < 3, mosaicRead s ((y - 1 + dy) * s.widthR.toNat + (x - 1 + dx)) = none

/-- A channel of a pixel. -/
def channelOf (p : Pixel) : Colour → Byte
  | .red => p.r
  | .green => p.g
  | .blue => p.b

/-- The pixel with its red and blue channels exchanged (R109). -/
def swapRedBlue (p : Pixel) : Pixel := ⟨p.b, p.g, p.r⟩

/-- R with B exchanged and GR with GB (R109). -/
def swapRole : Role → Role
  | .r => .b
  | .gr => .gb
  | .gb => .gr
  | .b => .r

/-- The native colour of pixel `(y, x)` (R104). -/
def colourAt (layoutR : BitVec 8) (y x : Nat) : Colour := nativeColour (roleAt layoutR y x)

/-! ## The image of an operation (R151) -/

/-- What RGB cell `y*W + x` holds when the operation has finished: the pixel of its window if interior,
black on the border. -/
def imageCell (s : State) (y x : Nat) : Option Pixel :=
  if isInterior s y x then pixelAt s y x else some blackPixel

/-- RGB cells 0 to W*H-1 hold the image (R151). -/
abbrev HoldsImage (s : State) : Prop :=
  ∀ y < s.heightR.toNat, ∀ x < s.widthR.toNat, rgbRead s (pixelIndex s y x) = imageCell s y x

/-- `(y, x)` comes before the scan's next pixel in row-major order (R148). -/
def isScanned (s : State) (y x : Nat) : Bool :=
  decide (y < s.sy.toNat) || (decide (y = s.sy.toNat) && decide (x < s.sx.toNat))

/-- What RGB cell `y*W + x` holds during the scan: the image where the scan has been, black elsewhere. -/
def partialCell (s : State) (y x : Nat) : Option Pixel :=
  if isScanned s y x then imageCell s y x else some blackPixel

/-! ## The invariant -/

/-- The parameter is in its range (R6). -/
abbrev ParamOk (s : State) : Prop := 9 ≤ s.memPixels ∧ s.memPixels ≤ 2 ^ 20

/-- Both memories are in canonical form and list only cells that exist (R38, R39). -/
abbrev MemoriesOk (s : State) : Prop :=
  Memory.wf s.mosaic = true ∧ Memory.below s.memPixels s.mosaic = true ∧
    Memory.wf s.rgb = true ∧ Memory.below s.memPixels s.rgb = true

/-- "ACC_CAUSE is 0 exactly when ACCERR = 0" (R37), and ERRADDR reads 0 then (R189). -/
abbrev RecordOk (s : State) : Prop :=
  (s.accCause = .none ↔ s.accErr = false) ∧
    (s.accErr = false → s.errAddr = 0 ∧ s.errWe = false)

/-- BUSY and DONE are never both 1, nor DONE and an error code, nor BUSY and an error code (R177, R149). -/
abbrev FlagsOk (s : State) : Prop :=
  (busy s = true → s.done = false ∧ s.err = .none) ∧ (s.done = true → s.err = .none)

/-- An operation in progress has a configuration that START accepted (R227, R258). -/
abbrev ConfigOk (s : State) : Prop := busy s = true → ConfigValid s

/-- In the clear phase CIDX is below W*H and the cells before it are black (R141). -/
abbrev ClearOk (s : State) : Prop :=
  s.phase = .clear →
    s.cidx < imagePixels s ∧ ∀ i < s.cidx, rgbRead s i = some blackPixel

/-- In the scan (SY, SX) is interior, and the image stands in RGB as far as the scan has come (R148, R150);
where it has been, every sample of its windows was written (R130). -/
abbrev ScanOk (s : State) : Prop :=
  s.phase = .scan →
    isInterior s s.sy.toNat s.sx.toNat = true ∧
      ∀ y < s.heightR.toNat, ∀ x < s.widthR.toNat,
        rgbRead s (pixelIndex s y x) = partialCell s y x ∧ (partialCell s y x).isSome = true

/-- The invariant of the block: it holds after reset and every step keeps it. -/
abbrev BlockInv (s : State) : Prop :=
  ParamOk s ∧ MemoriesOk s ∧ RecordOk s ∧ FlagsOk s ∧ ConfigOk s ∧ ClearOk s ∧ ScanOk s

/-! ## The length of an operation and the end of a run -/

/-- The ENGINE steps an accepted operation takes: `W*H + max(W-2,0)*max(H-2,0)` (R154). -/
def operationSteps (s : State) : Nat :=
  imagePixels s + (s.widthR.toNat - 2) * (s.heightR.toNat - 2)

/-- The ENGINE steps left of the operation in progress. -/
def stepsLeft (s : State) : Nat :=
  match s.phase with
  | .idle => 0
  | .clear => operationSteps s - s.cidx
  | .scan =>
    (s.heightR.toNat - 2 - s.sy.toNat) * (s.widthR.toNat - 2) + (s.widthR.toNat - 2 - s.sx.toNat) + 1

/-- The transactions not yet answered. -/
def pendingTransactions (s : State) : List Event :=
  s.events.filter fun e =>
    match e with
    | .transaction _ => true
    | .engine => false
    | .reset => false

/-- `n` steps of the block, stopping at the first model fault (R264). -/
def runSteps (n : Nat) (s : State) : Host.Outcome State Fault Refusal := Host.Core.run Sys2Proof.core n s

/-- The operation in progress at `s` runs for exactly `n` steps of the two agents, all but the last of which
leave it in progress, and `t` is the state in which it has finished. Transactions may come between the
ENGINE's steps; no reset does (R140, R261). -/
abbrev FinishesAfter (n : Nat) (s t : State) : Prop :=
  Event.reset ∉ s.events ∧ (∀ k < n, ∃ u, runSteps k s = .next u ∧ busy u = true) ∧
    runSteps n s = .next t ∧ busy t = false

/-- The run has ended: every transaction has its response and PHASE = IDLE (R264). -/
abbrev RunEnded (s : State) : Prop := pendingTransactions s = [] ∧ s.phase = .idle

end Sys2Proof.Machine
end

