-- ==== Sys2Proof/Certificates/Slice0/Obligations.lean ====
section
/-! DEFINITION. The statements about the block, from the numbered rules of spec/. -/

open Sys2Proof Sys2Proof.Machine

/-! ## Encoding (R80 to R86) -/

/-- Decoding what the encoder writes gives the transaction back, with every operand at every value
(R80, R82, R83, R84). -/
def Obligations.DecodeOfEncodeIsIdentity : Prop :=
  ∀ i : Instr, WellFormed i → decode (encode i) = i

/-- Every word decodes to a well-formed transaction, and differs from that transaction's own word in ignored
bits only (R82, R86). -/
def Obligations.EveryWordIsItsEncodingUpToIgnoredBits : Prop :=
  ∀ t : Txn, WellFormed (decode t) ∧ encode (decode t) = t &&& usedBits (decode t)

/-- The decoder agrees with the opcode table in mask/match form: at most one row other than ERR_UNMAPPED
matches a word, the word's class is that row's, and ERR_UNMAPPED, which matches every word, is the class
where no other row matches (R85). -/
def Obligations.OpcodeTableClassifiesEveryWord : Prop :=
  ∀ t : Txn,
    (∀ row ∈ classRows, ∀ row' ∈ classRows,
      rowMatches row t = true → rowMatches row' t = true → row = row') ∧
    (∀ row ∈ classRows, rowMatches row t = true → mnemonic (decode t) = row.mnemonic) ∧
    rowMatches unmappedRow t = true ∧
    ((∀ row ∈ classRows, rowMatches row t = false) → mnemonic (decode t) = "ERR_UNMAPPED")

/-- Words written out from the spec's programs decode to the transactions they are printed beside
(95_test_vectors.md P1, P2, P4, P5, P7; R80). -/
def Obligations.PrintedWordsDecode : Prop :=
  decode 0x100000C00000003#57 = .wrWidth 3#16 ∧
  decode 0x100001400000104#57 = .wrLayout 4#8 ∧
  decode 0x100000400000003#57 = .wrCtrl true true ∧
  decode 0x100001800000004#57 = .wrIrqen false false true ∧
  decode 0x000002000000000#57 = .rdErraddr ∧
  decode 0x140001800000028#57 = .wrMosaic 6#20 40#8 ∧
  decode 0x040006400000000#57 = .rdMosaic 25#20 ∧
  decode 0x080006000000000#57 = .rdRgb 24#20 ∧
  decode 0x100002200000007#57 = .errMisaligned2 true 8#22 ∧
  decode 0x000002400000000#57 = .errUnmapped false 0x24#24

/-- Every word with `addr[1:0] != 0`, read or write, at any offset, in any state, is refused with MISALIGNED,
recorded with its own offset and direction, and changes nothing but the error record (R63, R224). -/
def Obligations.MisalignedWordsAreRefused : Prop :=
  ∀ (t : Txn) (s : State), (txnAddr t).extractLsb' 0 2 ≠ 0#2 →
    exec (decode t) s = .next (refusedState .misaligned (txnWe t) (txnAddr t) s)

/-- Every aligned word at an offset from 0x000024 to 0x3FFFFF or from 0xC00000 on is refused with UNMAPPED,
read or write, in any state (R225). -/
def Obligations.UnmappedWordsAreRefused : Prop :=
  ∀ (t : Txn) (s : State), (txnAddr t).extractLsb' 0 2 = 0#2 →
    ((0x24 ≤ (txnAddr t).toNat ∧ (txnAddr t).toNat ≤ 0x3FFFFF) ∨ 0xC00000 ≤ (txnAddr t).toNat) →
    exec (decode t) s = .next (refusedState .unmapped (txnWe t) (txnAddr t) s)

/-! ## The step -/

/-- When the HOST's transaction is the next event, the step is the meaning of its decoded class on the state
with that event taken (R67, R69); so is a step on a word placed by withFetchWord (log 7). -/
def Obligations.StepRunsTheDecodedTransaction : Prop :=
  (∀ (s : State) (t : Txn) (rest : List Event), s.events = .transaction t :: rest →
    step s = exec (decode t) { s with events := rest }) ∧
  (∀ (s : State) (nbits w : Nat), w < 2 ^ nbits → w < 2 ^ 57 →
    step (s.withFetchWord nbits w) = exec (decode (BitVec.ofNat 57 w)) s)

/-- The model's schedule (log 3): an ENGINE event is one turn of the ENGINE; with no event left the ENGINE has
its turns while it is busy, and an idle block stays as it is. -/
def Obligations.EngineTurnsWhenScheduled : Prop :=
  (∀ (s : State) (rest : List Event), s.events = .engine :: rest →
    step s = engineTurn { s with events := rest }) ∧
  (∀ s : State, s.events = [] → step s = engineTurn s) ∧
  (∀ s : State, s.events = [] → s.phase = .idle → step s = .next s)

/-- A RESET event, in any state and any phase, is one step to the reset values: registers 0, PHASE idle,
every cell unwritten, irq 0; STATUS then reads 0 and a START is rejected with ZERO_DIM (R251). The constants
are unaffected. -/
def Obligations.ResetEventRestoresTheResetState : Prop :=
  ∀ (s : State) (rest : List Event), s.events = .reset :: rest →
    ∃ t, step s = .next t ∧
      t.phase = .idle ∧ t.cidx = 0 ∧ t.sy = 0#16 ∧ t.sx = 0#16 ∧
      t.widthR = 0#16 ∧ t.heightR = 0#16 ∧ t.layoutR = 0#8 ∧
      t.doneIe = false ∧ t.errIe = false ∧ t.accIe = false ∧
      t.done = false ∧ t.err = .none ∧ t.accErr = false ∧ t.accCause = .none ∧
      t.errAddr = 0#24 ∧ t.errWe = false ∧ irq t = false ∧ t.memPixels = s.memPixels ∧
      (∀ i, mosaicRead t i = none) ∧ (∀ i, rgbRead t i = none) ∧
      exec .rdStatus t = .next (answeredState 0#32 t) ∧
      exec .rdId t = .next (answeredState 0x42444D01#32 t) ∧
      exec .rdCtrl t = .next (answeredState 0#32 t) ∧
      exec .rdCapacity t = .next (answeredState (BitVec.ofNat 21 s.memPixels |>.setWidth 32) t) ∧
      ∃ u, exec (.wrCtrl true false) t = .next u ∧ u.err = .zeroDim ∧ u.phase = .idle

/-- The state of the model after reset has every value the spec states for reset (R251, R253). -/
def Obligations.ResetStateIsAsSpecified : Prop :=
  State.reset.phase = .idle ∧ State.reset.cidx = 0 ∧ State.reset.sy = 0#16 ∧ State.reset.sx = 0#16 ∧
  State.reset.widthR = 0#16 ∧ State.reset.heightR = 0#16 ∧ State.reset.layoutR = 0#8 ∧
  State.reset.doneIe = false ∧ State.reset.errIe = false ∧ State.reset.accIe = false ∧
  State.reset.done = false ∧ State.reset.err = .none ∧ State.reset.accErr = false ∧
  State.reset.accCause = .none ∧ State.reset.errAddr = 0#24 ∧ State.reset.errWe = false ∧
  irq State.reset = false ∧ 9 ≤ State.reset.memPixels ∧ State.reset.memPixels ≤ 2 ^ 20 ∧
  (∀ i, mosaicRead State.reset i = none) ∧ (∀ i, rgbRead State.reset i = none)

/-- The invariant of the block holds after reset. -/
def Obligations.InvariantHoldsAtReset : Prop := BlockInv State.reset

/-- Every step of either agent, and every reset, keeps the invariant: the memories stay canonical and inside
MEM_PIXELS, ACC_CAUSE is 0 exactly when ACCERR is, BUSY, DONE and ERR exclude one another, an operation's
configuration stays valid, CIDX, SY and SX stay in range, and RGB holds the image as far as the operation has
come (R37, R141, R148, R150, R177, R258). -/
def Obligations.EveryStepKeepsTheInvariant : Prop :=
  ∀ s t : State, BlockInv s → step s = .next t → BlockInv t

/-! ## pattern_rule_lut -/

/-- The role table is the printed one (R102). -/
def Obligations.RoleTableIsAsPrinted : Prop :=
  roleTable 0#2 false false = .r ∧ roleTable 0#2 false true = .gr ∧
  roleTable 0#2 true false = .gb ∧ roleTable 0#2 true true = .b ∧
  roleTable 1#2 false false = .b ∧ roleTable 1#2 false true = .gb ∧
  roleTable 1#2 true false = .gr ∧ roleTable 1#2 true true = .r ∧
  roleTable 2#2 false false = .gr ∧ roleTable 2#2 false true = .r ∧
  roleTable 2#2 true false = .b ∧ roleTable 2#2 true true = .gb ∧
  roleTable 3#2 false false = .gb ∧ roleTable 3#2 false true = .b ∧
  roleTable 3#2 true false = .r ∧ roleTable 3#2 true true = .gr

/-- In every 2×2 tile of every layout each role has exactly one cell, the R- and B-cells are diagonal to each
other, and they lie on the even diagonal in RGGB and BGGR and off it in GRBG and GBRG (R103). -/
def Obligations.EveryTileHasEachRoleOnce : Prop :=
  ∀ layout : BitVec 2,
    (∀ role : Role, ∃ py px : Bool, roleTable layout py px = role ∧
      ∀ qy qx : Bool, roleTable layout qy qx = role → qy = py ∧ qx = px) ∧
    (∀ py px : Bool, roleTable layout py px = .r ↔ roleTable layout (!py) (!px) = .b) ∧
    (∀ py px : Bool, roleTable layout py px = .gr ↔ roleTable layout (!py) (!px) = .gb) ∧
    (∀ py px : Bool, roleTable layout py px = .r → (py = px ↔ layout = 0#2 ∨ layout = 1#2))

/-- The role depends on the layout and the parities alone, and fixes the colours of the eight neighbours
(R104). -/
def Obligations.RoleFixesTheNeighbourColours : Prop :=
  ∀ (layout : BitVec 8) (y x : Nat), 1 ≤ y → 1 ≤ x →
    (∀ y' x', y' % 2 = y % 2 → x' % 2 = x % 2 → roleAt layout y' x' = roleAt layout y x) ∧
    (roleAt layout y x = .r →
      (∀ y' x', (y' = y - 1 ∨ y' = y + 1) → (x' = x - 1 ∨ x' = x + 1) → colourAt layout y' x' = .blue) ∧
      colourAt layout (y - 1) x = .green ∧ colourAt layout (y + 1) x = .green ∧
      colourAt layout y (x - 1) = .green ∧ colourAt layout y (x + 1) = .green) ∧
    (roleAt layout y x = .b →
      (∀ y' x', (y' = y - 1 ∨ y' = y + 1) → (x' = x - 1 ∨ x' = x + 1) → colourAt layout y' x' = .red) ∧
      colourAt layout (y - 1) x = .green ∧ colourAt layout (y + 1) x = .green ∧
      colourAt layout y (x - 1) = .green ∧ colourAt layout y (x + 1) = .green) ∧
    (roleAt layout y x = .gr →
      (∀ y' x', (y' = y - 1 ∨ y' = y + 1) → (x' = x - 1 ∨ x' = x + 1) → colourAt layout y' x' = .green) ∧
      colourAt layout (y - 1) x = .blue ∧ colourAt layout (y + 1) x = .blue ∧
      colourAt layout y (x - 1) = .red ∧ colourAt layout y (x + 1) = .red) ∧
    (roleAt layout y x = .gb →
      (∀ y' x', (y' = y - 1 ∨ y' = y + 1) → (x' = x - 1 ∨ x' = x + 1) → colourAt layout y' x' = .green) ∧
      colourAt layout (y - 1) x = .red ∧ colourAt layout (y + 1) x = .red ∧
      colourAt layout y (x - 1) = .blue ∧ colourAt layout y (x + 1) = .blue)

/-- Each role takes its three channels from the printed sources (R107). -/
def Obligations.EachRoleTakesItsChannelsFromTheirSources : Prop :=
  ∀ win : Window,
    selectPixel .r win = ⟨cen win, orth4 win, diag4 win⟩ ∧
    selectPixel .gr win = ⟨horz2 win, cen win, vert2 win⟩ ∧
    selectPixel .gb win = ⟨vert2 win, cen win, horz2 win⟩ ∧
    selectPixel .b win = ⟨diag4 win, orth4 win, cen win⟩

/-- Exactly one channel of each role comes from CEN, it is the native one, and the reconstructed native
channel at a pixel equals the raw sample there (R108). -/
def Obligations.NativeChannelIsTheRawSample : Prop :=
  (∀ role : Role,
    ((channelSources role).r = .cen ↔ nativeColour role = .red) ∧
    ((channelSources role).g = .cen ↔ nativeColour role = .green) ∧
    ((channelSources role).b = .cen ↔ nativeColour role = .blue)) ∧
  ∀ (s : State) (y x : Nat) (p : Pixel), pixelAt s y x = some p →
    mosaicRead s (y * s.widthR.toNat + x) = some (channelOf p (colourAt s.layoutR y x))

/-- Exchanging R with B and GR with GB maps RGGB onto BGGR and GRBG onto GBRG, so the image of a mosaic under
one is the image under the other with red and blue exchanged in every pixel (R109). -/
def Obligations.SwappedLayoutsSwapRedAndBlue : Prop :=
  (∀ (role : Role) (win : Window), selectPixel (swapRole role) win = swapRedBlue (selectPixel role win)) ∧
  (∀ py px : Bool, roleTable 1#2 py px = swapRole (roleTable 0#2 py px) ∧
    roleTable 3#2 py px = swapRole (roleTable 2#2 py px)) ∧
  ∀ (s : State) (y x : Nat),
    imageCell { s with layoutR := 1#8 } y x = (imageCell { s with layoutR := 0#8 } y x).map swapRedBlue ∧
    imageCell { s with layoutR := 3#8 } y x = (imageCell { s with layoutR := 2#8 } y x).map swapRedBlue

/-! ## neighborhood_sampler -/

/-- The sampler's five values, as exact natural numbers: sums divided by 4 or 2, truncated, never rounded
(R123, R124, R125, R126, R127). -/
def Obligations.AveragesAreExactFloors : Prop :=
  ∀ win : Window,
    (orth4 win).toNat = (win.n.toNat + win.s.toNat + win.w.toNat + win.e.toNat) / 4 ∧
    (diag4 win).toNat = (win.nw.toNat + win.ne.toNat + win.sw.toNat + win.se.toNat) / 4 ∧
    (horz2 win).toNat = (win.w.toNat + win.e.toNat) / 2 ∧
    (vert2 win).toNat = (win.n.toNat + win.s.toNat) / 2 ∧
    cen win = win.c

/-- The window fetch of an interior pixel reads the nine MOSAIC cells around it and no cell outside the image: it
gives exactly those cells' samples, it gives the same in two states of equal WIDTH whose MOSAIC cells 0 to W*H-1
agree, and so does the pixel where the layouts agree too, and each of the nine indexes lies below W*H (R120, R121,
R122). -/
def Obligations.WindowStaysInsideTheImage : Prop :=
  ∀ (s : State) (y x : Nat), 1 ≤ y → y + 2 ≤ s.heightR.toNat → 1 ≤ x → x + 2 ≤ s.widthR.toNat →
    (∀ win, fetchWindow s y x = some win ↔ IsWindow s y x win) ∧
    (∀ s' : State, s'.widthR = s.widthR →
      (∀ i < s.widthR.toNat * s.heightR.toNat, mosaicRead s' i = mosaicRead s i) →
      fetchWindow s' y x = fetchWindow s y x ∧
        (s'.layoutR = s.layoutR → pixelAt s' y x = pixelAt s y x)) ∧
    (∀ dy < 3, ∀ dx < 3,
      y - 1 + dy < s.heightR.toNat ∧ x - 1 + dx < s.widthR.toNat ∧
        (y - 1 + dy) * s.widthR.toNat + (x - 1 + dx) < s.widthR.toNat * s.heightR.toNat)

/-! ## The ENGINE -/

/-- CLEAR_STEP blacks the cell CIDX, moves CIDX on and changes nothing else; after the last cell HandOver goes
to the scan at (1,1), or ends the operation, with all W*H cells zero, where the interior is empty
(R141, R142). -/
def Obligations.ClearStepBlacksOneCell : Prop :=
  ∀ s : State, BlockInv s → s.phase = .clear →
    ∃ t, engineTurn s = .next t ∧
      rgbRead t s.cidx = some ⟨0#8, 0#8, 0#8⟩ ∧
      (∀ j, j ≠ s.cidx → rgbRead t j = rgbRead s j) ∧
      t = { s with rgb := t.rgb, cidx := s.cidx + 1, phase := t.phase, sy := t.sy, sx := t.sx,
                   done := t.done } ∧
      (s.cidx + 1 ≠ s.widthR.toNat * s.heightR.toNat →
        t.phase = .clear ∧ t.sy = s.sy ∧ t.sx = s.sx ∧ t.done = s.done) ∧
      (s.cidx + 1 = s.widthR.toNat * s.heightR.toNat → 3 ≤ s.widthR.toNat → 3 ≤ s.heightR.toNat →
        t.phase = .scan ∧ t.sy = 1#16 ∧ t.sx = 1#16 ∧ t.done = s.done) ∧
      (s.cidx + 1 = s.widthR.toNat * s.heightR.toNat → (s.widthR.toNat < 3 ∨ s.heightR.toNat < 3) →
        t.phase = .idle ∧ t.sy = s.sy ∧ t.sx = s.sx ∧ t.done = true ∧
        ∀ i < s.widthR.toNat * s.heightR.toNat, rgbRead t i = some ⟨0#8, 0#8, 0#8⟩)

/-- PIXEL_STEP at (SY, SX) writes the pixel of its window and role there, changes no other cell, and advances
in row-major order, wrapping to column 1, or finishes after the last interior pixel (R143, R148, R149). -/
def Obligations.PixelStepWritesItsPixelAndAdvances : Prop :=
  ∀ (s : State) (win : Window), BlockInv s → s.phase = .scan → IsWindow s s.sy.toNat s.sx.toNat win →
    ∃ t, engineTurn s = .next t ∧
      rgbRead t (s.sy.toNat * s.widthR.toNat + s.sx.toNat) =
        some (selectPixel
          (roleTable (s.layoutR.extractLsb' 0 2) (s.sy.getLsbD 0) (s.sx.getLsbD 0)) win) ∧
      (∀ j, j ≠ s.sy.toNat * s.widthR.toNat + s.sx.toNat → rgbRead t j = rgbRead s j) ∧
      t = { s with rgb := t.rgb, phase := t.phase, sy := t.sy, sx := t.sx, done := t.done } ∧
      (s.sx.toNat + 2 < s.widthR.toNat →
        t.phase = .scan ∧ t.sy = s.sy ∧ t.sx.toNat = s.sx.toNat + 1 ∧ t.done = s.done) ∧
      (s.sx.toNat + 2 = s.widthR.toNat → s.sy.toNat + 2 < s.heightR.toNat →
        t.phase = .scan ∧ t.sy.toNat = s.sy.toNat + 1 ∧ t.sx = 1#16 ∧ t.done = s.done) ∧
      (s.sx.toNat + 2 = s.widthR.toNat → s.sy.toNat + 2 = s.heightR.toNat →
        t.phase = .idle ∧ t.sy = s.sy ∧ t.sx = s.sx ∧ t.done = true ∧
        (s.doneIe = true → irq t = true))

/-- The pixel a PIXEL_STEP leaves, by the role that the role table gives for LAYOUT_R and the parities of (SY, SX),
in exact arithmetic on the MOSAIC cells at the row-major indexes of its window (R144, R145, R146, R147; the
indexes are R120's). -/
def Obligations.PixelStepComputesTheFormulaOfItsRole : Prop :=
  ∀ (s : State) (win : Window), BlockInv s → s.phase = .scan → IsWindow s s.sy.toNat s.sx.toNat win →
    ∃ t p, engineTurn s = .next t ∧
      rgbRead t (s.sy.toNat * s.widthR.toNat + s.sx.toNat) = some p ∧
      (roleTable (s.layoutR.extractLsb' 0 2) (s.sy.getLsbD 0) (s.sx.getLsbD 0) = .r →
        p.r = win.c ∧
        p.g.toNat = (win.n.toNat + win.s.toNat + win.w.toNat + win.e.toNat) / 4 ∧
        p.b.toNat = (win.nw.toNat + win.ne.toNat + win.sw.toNat + win.se.toNat) / 4) ∧
      (roleTable (s.layoutR.extractLsb' 0 2) (s.sy.getLsbD 0) (s.sx.getLsbD 0) = .gr →
        p.r.toNat = (win.w.toNat + win.e.toNat) / 2 ∧ p.g = win.c ∧
        p.b.toNat = (win.n.toNat + win.s.toNat) / 2) ∧
      (roleTable (s.layoutR.extractLsb' 0 2) (s.sy.getLsbD 0) (s.sx.getLsbD 0) = .gb →
        p.r.toNat = (win.n.toNat + win.s.toNat) / 2 ∧ p.g = win.c ∧
        p.b.toNat = (win.w.toNat + win.e.toNat) / 2) ∧
      (roleTable (s.layoutR.extractLsb' 0 2) (s.sy.getLsbD 0) (s.sx.getLsbD 0) = .b →
        p.r.toNat = (win.nw.toNat + win.ne.toNat + win.sw.toNat + win.se.toNat) / 4 ∧
        p.g.toNat = (win.n.toNat + win.s.toNat + win.w.toNat + win.e.toNat) / 4 ∧
        p.b = win.c)

/-- A PIXEL_STEP raises UnwrittenSample exactly when one of the nine cells of its window is unwritten, whatever
the role (R130). -/
def Obligations.PixelStepFaultsExactlyOnUnwrittenSample : Prop :=
  ∀ s : State, BlockInv s → s.phase = .scan →
    (engineTurn s = .fault .unwrittenSample ↔ WindowHasUnwritten s s.sy.toNat s.sx.toNat)

/-- An operation raises no hardware error: a turn of the busy ENGINE goes on with the error record, ERR and the
responses untouched, or stops with UnwrittenSample; with the mosaic loaded it always goes on (R229). -/
def Obligations.EngineRaisesNoHardwareError : Prop :=
  ∀ s : State, BlockInv s → busy s = true →
    ((∃ t, engineTurn s = .next t ∧ t.err = .none ∧ t.accErr = s.accErr ∧ t.accCause = s.accCause ∧
        t.errAddr = s.errAddr ∧ t.errWe = s.errWe ∧ t.responses = s.responses) ∨
      engineTurn s = .fault .unwrittenSample) ∧
    (MosaicLoaded s → ∃ t, engineTurn s = .next t)

/-- A turn of the busy ENGINE writes one RGB cell below W*H, in the scan an interior one, in the clear phase
with zeros; it writes no MOSAIC cell and no register but PHASE, CIDX, SY, SX and DONE (R150, R76). -/
def Obligations.EngineTouchesOnlyItsOwnState : Prop :=
  ∀ s t : State, BlockInv s → busy s = true → engineTurn s = .next t →
    t = { s with rgb := t.rgb, phase := t.phase, cidx := t.cidx, sy := t.sy, sx := t.sx,
                 done := t.done } ∧
    ∃ j < s.widthR.toNat * s.heightR.toNat,
      (∀ k, k ≠ j → rgbRead t k = rgbRead s k) ∧
      (s.phase = .clear → j = s.cidx ∧ rgbRead t j = some ⟨0#8, 0#8, 0#8⟩) ∧
      (s.phase = .scan → j = s.sy.toNat * s.widthR.toNat + s.sx.toNat ∧
        1 ≤ s.sy.toNat ∧ s.sy.toNat + 2 ≤ s.heightR.toNat ∧
        1 ≤ s.sx.toNat ∧ s.sx.toNat + 2 ≤ s.widthR.toNat)

/-- Each turn of the busy ENGINE is exactly one of the steps left of the operation; an accepted START has
`W*H + max(W-2,0)*max(H-2,0)` of them, at most 2*MEM_PIXELS, and none is left when the block is idle (R154). -/
def Obligations.EachEngineTurnUsesOneStepOfTheBound : Prop :=
  (∀ s t : State, BlockInv s → busy s = true → engineTurn s = .next t → stepsLeft t + 1 = stepsLeft s) ∧
  (∀ (s t : State) (c : Bool), s.phase = .idle → ConfigValid s → exec (.wrCtrl true c) s = .next t →
    stepsLeft t = s.widthR.toNat * s.heightR.toNat + (s.widthR.toNat - 2) * (s.heightR.toNat - 2) ∧
    stepsLeft t ≤ 2 * s.memPixels) ∧
  (∀ s : State, BlockInv s → (stepsLeft s = 0 ↔ s.phase = .idle))

/-- The result of an operation, whatever transactions come between the ENGINE's steps: when the operation that
an accepted START begins has finished, DONE is 1, each interior pixel's RGB cell holds the pixel of its role and
of the nine MOSAIC cells around it as they were at START, each border pixel's is black, and every other RGB cell and all of MOSAIC hold what they held before START
(R151). -/
def Obligations.FinishedOperationHoldsTheImage : Prop :=
  ∀ (s s₁ t : State) (c : Bool) (n : Nat), BlockInv s → s.phase = .idle → ConfigValid s →
    exec (.wrCtrl true c) s = .next s₁ → FinishesAfter n s₁ t →
    t.done = true ∧
    (∀ y < s.heightR.toNat, ∀ x < s.widthR.toNat,
      (1 ≤ y ∧ y + 2 ≤ s.heightR.toNat ∧ 1 ≤ x ∧ x + 2 ≤ s.widthR.toNat →
        ∃ win, IsWindow s y x win ∧
          rgbRead t (y * s.widthR.toNat + x) =
            some (selectPixel
              (roleTable (s.layoutR.extractLsb' 0 2) (decide (y % 2 = 1)) (decide (x % 2 = 1))) win)) ∧
      (¬(1 ≤ y ∧ y + 2 ≤ s.heightR.toNat ∧ 1 ≤ x ∧ x + 2 ≤ s.widthR.toNat) →
        rgbRead t (y * s.widthR.toNat + x) = some ⟨0#8, 0#8, 0#8⟩)) ∧
    (∀ i, s.widthR.toNat * s.heightR.toNat ≤ i → rgbRead t i = rgbRead s i) ∧
    (∀ i, mosaicRead t i = mosaicRead s i)

/-- Under the launch premises a START is accepted and the operation finishes with DONE = 1 and no model fault,
whatever transactions come between the ENGINE's steps; left to itself, with no event to come, it takes exactly
`W*H + max(W-2,0)*max(H-2,0)` steps (R255, R154; that the ENGINE has its turns then is the schedule of log 3). -/
def Obligations.LoadedOperationFinishes : Prop :=
  ∀ (s : State) (c : Bool), BlockInv s → CleanIdle s → ConfigValid s → MosaicLoaded s →
    Event.reset ∉ s.events →
    ∃ s₁, exec (.wrCtrl true c) s = .next s₁ ∧ busy s₁ = true ∧
      ∃ n t, FinishesAfter n s₁ t ∧ t.done = true ∧
        n ≤ s.events.length +
          (s.widthR.toNat * s.heightR.toNat + (s.widthR.toNat - 2) * (s.heightR.toNat - 2)) ∧
        (s.events = [] →
          n = s.widthR.toNat * s.heightR.toNat + (s.widthR.toNat - 2) * (s.heightR.toNat - 2))

/-- An operation with a scan finishes only if every one of its W*H samples has been written (R130). -/
def Obligations.FinishedScanHadEverySample : Prop :=
  ∀ (s s₁ t : State) (c : Bool) (n : Nat), BlockInv s → s.phase = .idle → ConfigValid s →
    3 ≤ s.widthR.toNat → 3 ≤ s.heightR.toNat →
    exec (.wrCtrl true c) s = .next s₁ → FinishesAfter n s₁ t → MosaicLoaded s

/-- Two operations with equal W, H, L and MOSAIC contents in cells 0 to W*H-1 leave equal RGB contents in cells
0 to W*H-1, whatever else differs between the states they start from and whatever transactions come in
between (R153). -/
def Obligations.EqualInputsGiveEqualImages : Prop :=
  ∀ (s s' s₁ s₁' t t' : State) (c c' : Bool) (n n' : Nat),
    BlockInv s → s.phase = .idle → ConfigValid s → BlockInv s' → s'.phase = .idle → ConfigValid s' →
    s'.widthR = s.widthR → s'.heightR = s.heightR → s'.layoutR = s.layoutR →
    (∀ i < s.widthR.toNat * s.heightR.toNat, mosaicRead s' i = mosaicRead s i) →
    exec (.wrCtrl true c) s = .next s₁ → FinishesAfter n s₁ t →
    exec (.wrCtrl true c') s' = .next s₁' → FinishesAfter n' s₁' t' →
    ∀ i < s.widthR.toNat * s.heightR.toNat, rgbRead t' i = rgbRead t i

/-- Only an accepted START moves PHASE out of IDLE; only the ENGINE's steps and reset move it back; the ENGINE
goes from CLEAR to SCAN or IDLE and from SCAN to IDLE (R22, R142, R149, R176; the list of moves is R155's, which the
spec derives). -/
def Obligations.PhaseMovesOnlyAsListed : Prop :=
  State.reset.phase = .idle ∧
  ∀ s t : State, step s = .next t →
    (s.phase = .idle → t.phase ≠ .idle →
      t.phase = .clear ∧ configCheck s = .none ∧
        ∃ w c, nextEvent s = .transaction w ∧ decode w = .wrCtrl true c) ∧
    (s.phase ≠ .idle → t.phase ≠ s.phase →
      (nextEvent s = .reset ∧ t.phase = .idle) ∨
      (nextEvent s = .engine ∧
        ((s.phase = .clear ∧ (t.phase = .scan ∨ t.phase = .idle)) ∨
          (s.phase = .scan ∧ t.phase = .idle))))

/-! ## Register transactions -/

/-- Reads of ID, CTRL, WIDTH, HEIGHT, LAYOUT and IRQEN answer their register in every state and phase and
change nothing (R171, R173, R179, R181, R183, R185). -/
def Obligations.RegisterReadsAnswerTheirFields : Prop :=
  ∀ (s : State) (d : Word),
    decode (packTxn false 0x000000#24 d) = .rdId ∧ decode (packTxn false 0x000004#24 d) = .rdCtrl ∧
    decode (packTxn false 0x00000C#24 d) = .rdWidth ∧ decode (packTxn false 0x000010#24 d) = .rdHeight ∧
    decode (packTxn false 0x000014#24 d) = .rdLayout ∧ decode (packTxn false 0x000018#24 d) = .rdIrqen ∧
    exec .rdId s = .next (answeredState 0x42444D01#32 s) ∧
    exec .rdCtrl s = .next (answeredState 0#32 s) ∧
    exec .rdWidth s = .next (answeredState (0#16 ++ s.widthR) s) ∧
    exec .rdHeight s = .next (answeredState (0#16 ++ s.heightR) s) ∧
    exec .rdLayout s = .next (answeredState (0#24 ++ s.layoutR) s) ∧
    exec .rdIrqen s = .next (answeredState
      (0#29 ++ BitVec.ofBool s.accIe ++ BitVec.ofBool s.errIe ++ BitVec.ofBool s.doneIe) s)

/-- A read of CAPACITY answers MEM_PIXELS, and it is a constant of the block: every step of either agent, and every
reset, keeps it (R187, R33). -/
def Obligations.CapacityReadAnswersMemPixels : Prop :=
  (∀ (s : State) (d : Word), 9 ≤ s.memPixels → s.memPixels ≤ 2 ^ 20 →
    decode (packTxn false 0x00001C#24 d) = .rdCapacity ∧
    ∃ v : Word, exec .rdCapacity s = .next (answeredState v s) ∧ v.toNat = s.memPixels) ∧
  ∀ s t : State, step s = .next t → t.memPixels = s.memPixels

/-- A read of STATUS answers BUSY, DONE, ACCERR, ERR and ACC_CAUSE at their bits, the two codes with their numbers
(R36, R221), and 0 at the reserved ones, and changes nothing; BUSY and DONE are never both 1, nor DONE and an error code (R177; the spec marks these two
exclusions as derived). -/
def Obligations.StatusReadAnswersTheFlags : Prop :=
  ∀ (s : State) (d : Word), decode (packTxn false 0x000008#24 d) = .rdStatus ∧
    ∃ v : Word, exec .rdStatus s = .next (answeredState v s) ∧
    v.getLsbD 0 = decide (s.phase ≠ .idle) ∧ v.getLsbD 1 = s.done ∧ v.getLsbD 2 = s.accErr ∧
    v.getLsbD 3 = false ∧ v.extractLsb' 6 2 = 0#2 ∧ v.extractLsb' 11 21 = 0#21 ∧
    (s.err = .none → v.extractLsb' 4 2 = 0#2) ∧ (s.err = .zeroDim → v.extractLsb' 4 2 = 1#2) ∧
    (s.err = .badLayout → v.extractLsb' 4 2 = 2#2) ∧ (s.err = .capacity → v.extractLsb' 4 2 = 3#2) ∧
    (s.accCause = .none → v.extractLsb' 8 3 = 0#3) ∧ (s.accCause = .misaligned → v.extractLsb' 8 3 = 1#3) ∧
    (s.accCause = .unmapped → v.extractLsb' 8 3 = 2#3) ∧ (s.accCause = .readOnly → v.extractLsb' 8 3 = 3#3) ∧
    (s.accCause = .range → v.extractLsb' 8 3 = 4#3) ∧ (s.accCause = .busy → v.extractLsb' 8 3 = 5#3) ∧
    (BlockInv s → ¬(v.getLsbD 0 = true ∧ v.getLsbD 1 = true) ∧
      ¬(v.getLsbD 1 = true ∧ v.extractLsb' 4 2 ≠ 0#2))

/-- A read of ERRADDR answers the offset and direction of the first access error, and 0 when none is recorded
(R189). -/
def Obligations.ErraddrReadAnswersTheRecord : Prop :=
  ∀ (s : State) (d : Word), decode (packTxn false 0x000020#24 d) = .rdErraddr ∧
    ∃ v : Word, exec .rdErraddr s = .next (answeredState v s) ∧
    v.extractLsb' 0 24 = s.errAddr ∧ v.getLsbD 24 = s.errWe ∧ v.extractLsb' 25 7 = 0#7 ∧
    (BlockInv s → s.accErr = false → v = 0#32)

/-- Writes to ID, STATUS, CAPACITY, ERRADDR and the RGB window are refused with READ_ONLY in every state, whatever
the index and BUSY, and change nothing but the error record (R172, R178, R188, R190, R204). -/
def Obligations.ReadOnlyWritesAreRefused : Prop :=
  ∀ (s : State) (d : Word),
    decode (packTxn true 0x000000#24 d) = .wrId ∧ decode (packTxn true 0x000008#24 d) = .wrStatus ∧
    decode (packTxn true 0x00001C#24 d) = .wrCapacity ∧ decode (packTxn true 0x000020#24 d) = .wrErraddr ∧
    exec .wrId s = .next (refusedState .readOnly true 0x000000#24 s) ∧
    exec .wrStatus s = .next (refusedState .readOnly true 0x000008#24 s) ∧
    exec .wrCapacity s = .next (refusedState .readOnly true 0x00001C#24 s) ∧
    exec .wrErraddr s = .next (refusedState .readOnly true 0x000020#24 s) ∧
    ∀ i : CellIndex,
      decode (packTxn true (BitVec.ofNat 24 (0x800000 + 4 * i.toNat)) d) = .wrRgb i ∧
      exec (.wrRgb i) s = .next (refusedState .readOnly true (BitVec.ofNat 24 (0x800000 + 4 * i.toNat)) s)

/-- The classes of illegal transactions record their own offset and direction, in every state (R224, R225). -/
def Obligations.IllegalClassesAreRefused : Prop :=
  ∀ (s : State) (we : Bool) (slot : WordSlot) (addr : Addr),
    exec (.errMisaligned1 we slot) s =
      .next (refusedState .misaligned we (BitVec.ofNat 24 (4 * slot.toNat + 1)) s) ∧
    exec (.errMisaligned2 we slot) s =
      .next (refusedState .misaligned we (BitVec.ofNat 24 (4 * slot.toNat + 2)) s) ∧
    exec (.errMisaligned3 we slot) s =
      .next (refusedState .misaligned we (BitVec.ofNat 24 (4 * slot.toNat + 3)) s) ∧
    exec (.errUnmapped we addr) s = .next (refusedState .unmapped we addr s)

/-- Writes to WIDTH, HEIGHT and LAYOUT store the low 16, 16 or 8 bits of wdata when the block is idle, any layout
code included, and are refused with BUSY during an operation (R180, R182, R184). -/
def Obligations.ConfigurationWritesStoreWhenIdle : Prop :=
  ∀ (s : State) (d : Word),
    decode (packTxn true 0x00000C#24 d) = .wrWidth (d.setWidth 16) ∧
    decode (packTxn true 0x000010#24 d) = .wrHeight (d.setWidth 16) ∧
    decode (packTxn true 0x000014#24 d) = .wrLayout (d.setWidth 8) ∧
    (s.phase = .idle →
      (∀ w : Dim, exec (.wrWidth w) s = .next (answeredState 0#32 { s with widthR := w })) ∧
      (∀ h : Dim, exec (.wrHeight h) s = .next (answeredState 0#32 { s with heightR := h })) ∧
      (∀ l : BitVec 8, exec (.wrLayout l) s = .next (answeredState 0#32 { s with layoutR := l }))) ∧
    (s.phase ≠ .idle →
      (∀ w : Dim, exec (.wrWidth w) s = .next (refusedState .busy true 0x00000C#24 s)) ∧
      (∀ h : Dim, exec (.wrHeight h) s = .next (refusedState .busy true 0x000010#24 s)) ∧
      (∀ l : BitVec 8, exec (.wrLayout l) s = .next (refusedState .busy true 0x000014#24 s)))

/-- A write to IRQEN stores the three enables from wdata[2:0] in every phase, and irq follows at once (R186). -/
def Obligations.IrqenWriteTakesEffectAtOnce : Prop :=
  ∀ (s : State) (d : Word) (a b c : Bool),
    decode (packTxn true 0x000018#24 d) = .wrIrqen (d.getLsbD 0) (d.getLsbD 1) (d.getLsbD 2) ∧
    exec (.wrIrqen a b c) s = .next (answeredState 0#32 { s with doneIe := a, errIe := b, accIe := c }) ∧
    irq (answeredState 0#32 { s with doneIe := a, errIe := b, accIe := c }) =
      ((a && s.done) || (b && decide (s.err ≠ .none)) || (c && s.accErr))

/-- irq is the OR of the three enabled sources, and 0 after reset (R43; the spec marks its value after reset as
derived). -/
def Obligations.InterruptIsTheOrOfItsSources : Prop :=
  (∀ s : State, irq s = true ↔
    (s.doneIe = true ∧ s.done = true) ∨ (s.errIe = true ∧ s.err ≠ .none) ∨
      (s.accIe = true ∧ s.accErr = true)) ∧
  irq State.reset = false

/-- A write to CTRL without START is never refused: with CLEAR it clears DONE, ERR and the access-error record and
lowers irq, leaving everything else, an operation in progress included; without CLEAR it does nothing (R174, R175,
R43; the spec marks the fall of irq as derived). -/
def Obligations.CtrlWriteWithoutStart : Prop :=
  ∀ (s : State) (d : Word),
    decode (packTxn true 0x000004#24 d) = .wrCtrl (d.getLsbD 0) (d.getLsbD 1) ∧
    exec (.wrCtrl false false) s = .next (answeredState 0#32 s) ∧
    exec (.wrCtrl false true) s = .next (answeredState 0#32 (clearedState s)) ∧
    irq (answeredState 0#32 (clearedState s)) = false ∧
    (BlockInv s → busy s = true → s.done = false ∧ s.err = .none)

/-- A START during an operation is refused with BUSY, and a CLEAR in the same write is not done (R174). -/
def Obligations.StartWhileBusyIsRefused : Prop :=
  ∀ (s : State) (c : Bool), s.phase ≠ .idle →
    exec (.wrCtrl true c) s = .next (refusedState .busy true 0x000004#24 s)

/-- A START that the configuration check rejects, in the priority ZERO_DIM, BAD_LAYOUT, CAPACITY, still responds
OKAY and leaves everything unchanged except DONE, set to 0, and ERR, set to the code; irq is then 1 if ERR_IE is; a
CLEAR in the same write acts first and clears the access-error record too (R174, R227, R228). -/
def Obligations.RejectedStartLeavesOnlyTheCode : Prop :=
  ∀ (s : State) (c : Bool), s.phase = .idle →
    ((s.widthR.toNat = 0 ∨ s.heightR.toNat = 0) →
      exec (.wrCtrl true c) s = .next (answeredState 0#32
        { (if c then clearedState s else s) with done := false, err := .zeroDim })) ∧
    (1 ≤ s.widthR.toNat → 1 ≤ s.heightR.toNat → 3 < s.layoutR.toNat →
      exec (.wrCtrl true c) s = .next (answeredState 0#32
        { (if c then clearedState s else s) with done := false, err := .badLayout })) ∧
    (1 ≤ s.widthR.toNat → 1 ≤ s.heightR.toNat → s.layoutR.toNat ≤ 3 →
      s.memPixels < s.widthR.toNat * s.heightR.toNat →
      exec (.wrCtrl true c) s = .next (answeredState 0#32
        { (if c then clearedState s else s) with done := false, err := .capacity })) ∧
    (∀ t, exec (.wrCtrl true c) s = .next t → t.err ≠ .none → s.errIe = true → irq t = true)

/-- A START with a valid configuration begins the clear phase: BUSY reads 1 from this transaction on, DONE and ERR
are 0, no memory cell is touched, and the access-error record stays unless CLEAR is set too (R176). -/
def Obligations.AcceptedStartBeginsTheClearPhase : Prop :=
  ∀ (s : State) (c : Bool), s.phase = .idle → ConfigValid s →
    exec (.wrCtrl true c) s = .next (answeredState 0#32
      { (if c then clearedState s else s) with done := false, err := .none, phase := .clear, cidx := 0 })

/-- After a START from idle, and any number of ENGINE steps, STATUS reads BUSY, or DONE, or an error code: never
BUSY = 0, DONE = 0 and ERR = 0 (R259; the ENGINE steps are those of a run with no event to come, which are the
ENGINE's turns by the model's schedule, log 3). -/
def Obligations.StartIsNeverLost : Prop :=
  ∀ (s s₁ t : State) (c : Bool) (n : Nat), BlockInv s → s.phase = .idle →
    exec (.wrCtrl true c) s = .next s₁ → runSteps n { s₁ with events := [] } = .next t →
    (busy t = true ∧ t.done = false ∧ t.err = .none) ∨
      (busy t = false ∧ t.done = true ∧ t.err = .none) ∨
      (busy t = false ∧ t.done = false ∧ t.err ≠ .none)

/-! ## Window transactions -/

/-- WR_MOSAIC stores wdata[7:0] in its one cell when the block is idle, and changes no other cell of either memory
and no register; out of range it is refused with RANGE, else during an operation with BUSY (R202). -/
def Obligations.MosaicWriteStoresOneCell : Prop :=
  ∀ (s : State) (i : CellIndex) (v : Byte) (d : Word),
    decode (packTxn true (BitVec.ofNat 24 (0x400000 + 4 * i.toNat)) d) = .wrMosaic i (d.setWidth 8) ∧
    (i.toNat < s.memPixels → s.phase = .idle →
      ∃ t, exec (.wrMosaic i v) s = .next t ∧
        mosaicRead t i.toNat = some v ∧
        (∀ j, j ≠ i.toNat → mosaicRead t j = mosaicRead s j) ∧
        (∀ j, rgbRead t j = rgbRead s j) ∧
        t = answeredState 0#32 { s with mosaic := t.mosaic }) ∧
    (s.memPixels ≤ i.toNat →
      exec (.wrMosaic i v) s =
        .next (refusedState .range true (BitVec.ofNat 24 (0x400000 + 4 * i.toNat)) s)) ∧
    (i.toNat < s.memPixels → s.phase ≠ .idle →
      exec (.wrMosaic i v) s =
        .next (refusedState .busy true (BitVec.ofNat 24 (0x400000 + 4 * i.toNat)) s))

/-- RD_MOSAIC answers the sample, zero-extended, when the block is idle and the cell is written; an unwritten cell is
a model fault; out of range it is refused with RANGE, else during an operation with BUSY (R201). -/
def Obligations.MosaicReadAnswersTheSample : Prop :=
  ∀ (s : State) (i : CellIndex) (d : Word),
    decode (packTxn false (BitVec.ofNat 24 (0x400000 + 4 * i.toNat)) d) = .rdMosaic i ∧
    (∀ v : Byte, i.toNat < s.memPixels → s.phase = .idle → mosaicRead s i.toNat = some v →
      exec (.rdMosaic i) s = .next (answeredState (0#24 ++ v) s)) ∧
    (i.toNat < s.memPixels → s.phase = .idle → mosaicRead s i.toNat = none →
      exec (.rdMosaic i) s = .fault .unwrittenMosaicRead) ∧
    (s.memPixels ≤ i.toNat →
      exec (.rdMosaic i) s =
        .next (refusedState .range false (BitVec.ofNat 24 (0x400000 + 4 * i.toNat)) s)) ∧
    (i.toNat < s.memPixels → s.phase ≠ .idle →
      exec (.rdMosaic i) s =
        .next (refusedState .busy false (BitVec.ofNat 24 (0x400000 + 4 * i.toNat)) s))

/-- RD_RGB answers `(8'b0, b, g, r)` when the block is idle and the cell is written; an unwritten cell is a model
fault; out of range it is refused with RANGE, else during an operation with BUSY (R203). -/
def Obligations.RgbReadAnswersThePixel : Prop :=
  ∀ (s : State) (i : CellIndex) (d : Word),
    decode (packTxn false (BitVec.ofNat 24 (0x800000 + 4 * i.toNat)) d) = .rdRgb i ∧
    (∀ p : Pixel, i.toNat < s.memPixels → s.phase = .idle → rgbRead s i.toNat = some p →
      exec (.rdRgb i) s = .next (answeredState (0#8 ++ p.b ++ p.g ++ p.r) s)) ∧
    (i.toNat < s.memPixels → s.phase = .idle → rgbRead s i.toNat = none →
      exec (.rdRgb i) s = .fault .unwrittenRgbRead) ∧
    (s.memPixels ≤ i.toNat →
      exec (.rdRgb i) s =
        .next (refusedState .range false (BitVec.ofNat 24 (0x800000 + 4 * i.toNat)) s)) ∧
    (i.toNat < s.memPixels → s.phase ≠ .idle →
      exec (.rdRgb i) s =
        .next (refusedState .busy false (BitVec.ofNat 24 (0x800000 + 4 * i.toNat)) s))

/-- A MOSAIC word written and read back answers the low byte of what was written, bits 31:8 being 0 (R65). -/
def Obligations.MosaicWordReadsBackItsLowByte : Prop :=
  ∀ (s : State) (i : CellIndex) (d e : Word), i.toNat < s.memPixels → s.phase = .idle →
    ∃ t u, exec (decode (packTxn true (BitVec.ofNat 24 (0x400000 + 4 * i.toNat)) d)) s = .next t ∧
      exec (decode (packTxn false (BitVec.ofNat 24 (0x400000 + 4 * i.toNat)) e)) t = .next u ∧
      ∃ v : Word, u.responses = s.responses ++ [⟨.okay, 0#32⟩, ⟨.okay, v⟩] ∧
        v.toNat = d.toNat % 256

/-! ## Whole-machine rules -/

/-- Every transaction that completes gets exactly one response, after all earlier ones; an ERROR carries 0, so
does a write, and a START from idle responds OKAY even if its configuration is rejected (R81). -/
def Obligations.EveryTransactionGetsOneResponse : Prop :=
  ∀ (i : Instr) (s t : State), exec i s = .next t →
    ∃ r : Response, t.responses = s.responses ++ [r] ∧
      (r.resp = .error → r.rdata = 0#32) ∧ (isWrite i = true → r.rdata = 0#32) ∧
      (s.phase = .idle → (∃ c, i = .wrCtrl true c) → r.resp = .okay)

/-- An access error is precise: when a transaction responds ERROR, the state after it is the state before it plus,
at most, the record of the first error, with the transaction's own offset and direction and a cause that is not
NONE; irq is then 1 if ACC_IE is (R223). -/
def Obligations.AccessErrorsArePrecise : Prop :=
  ∀ (i : Instr) (s t : State) (d : Word), exec i s = .next t →
    t.responses = s.responses ++ [⟨.error, d⟩] →
    (∃ cause, cause ≠ AccCause.none ∧ t = refusedState cause (isWrite i) (offsetOf i) s) ∧
    (t.accIe = true → irq t = true)

/-- While an operation is in progress no transaction changes its configuration, MOSAIC, RGB, PHASE, CIDX, SY or SX,
and the writes that would are refused with BUSY (R258). -/
def Obligations.TransactionsLeaveARunningOperationAlone : Prop :=
  (∀ (i : Instr) (s t : State), busy s = true → exec i s = .next t →
    t.widthR = s.widthR ∧ t.heightR = s.heightR ∧ t.layoutR = s.layoutR ∧ t.mosaic = s.mosaic ∧
      t.rgb = s.rgb ∧ t.phase = s.phase ∧ t.cidx = s.cidx ∧ t.sy = s.sy ∧ t.sx = s.sx ∧
      t.memPixels = s.memPixels ∧ t.events = s.events) ∧
  (∀ (s : State) (i : Instr), busy s = true →
    ((∃ w, i = .wrWidth w) ∨ (∃ h, i = .wrHeight h) ∨ (∃ l, i = .wrLayout l) ∨
      (∃ k v, i = .wrMosaic k v ∧ k.toNat < s.memPixels) ∨ (∃ c, i = .wrCtrl true c)) →
    exec i s = .next (refusedState .busy true (offsetOf i) s))

/-- A read that responds OKAY changes no state at all, whichever register or cell it reads (R68). -/
def Obligations.SuccessfulReadsChangeNothing : Prop :=
  ∀ (i : Instr) (s t : State) (d : Word), isWrite i = false → exec i s = .next t →
    t.responses = s.responses ++ [⟨.okay, d⟩] → t = answeredState d s

/-- DONE rises only when a busy ENGINE's turn ends the operation, and falls only at a START, a CLEAR or a reset; ERR
changes only at a START, a CLEAR or a reset. A step leaves the access-error record as it is, or it is a transaction
that finds no error recorded, responds ERROR and records a cause with its own offset and direction (the first-error
capture), or it is a CLEAR or a reset and leaves the record cleared (R34, R35, R36, R37, R223, R231). -/
def Obligations.FlagsChangeOnlyByTheirSetters : Prop :=
  ∀ s t : State, step s = .next t →
    (s.done = false → t.done = true → nextEvent s = .engine ∧ busy s = true ∧ busy t = false) ∧
    (s.done = true → t.done = false → nextEvent s = .reset ∨
      ∃ w a b, nextEvent s = .transaction w ∧ decode w = .wrCtrl a b ∧ (a = true ∨ b = true)) ∧
    (t.err ≠ s.err → nextEvent s = .reset ∨
      ∃ w a b, nextEvent s = .transaction w ∧ decode w = .wrCtrl a b ∧ (a = true ∨ b = true)) ∧
    ((t.accErr = s.accErr ∧ t.accCause = s.accCause ∧ t.errAddr = s.errAddr ∧ t.errWe = s.errWe) ∨
      (s.accErr = false ∧ ∃ w, nextEvent s = .transaction w ∧
        t.responses = s.responses ++ [⟨.error, 0#32⟩] ∧ t.accErr = true ∧ t.accCause ≠ .none ∧
        t.errAddr = offsetOf (decode w) ∧ t.errWe = isWrite (decode w)) ∨
      ((nextEvent s = .reset ∨ ∃ w a, nextEvent s = .transaction w ∧ decode w = .wrCtrl a true) ∧
        t.accErr = false ∧ t.accCause = .none ∧ t.errAddr = 0#24 ∧ t.errWe = false))

/-- The only stops of the block are the three model faults, each raised by its own step on an unwritten cell (R239),
and a stop is never cleared by a later step: that a fault ends the run is the model's choice (log 14). -/
def Obligations.StopsAreTheModelFaults : Prop :=
  ∀ (s : State) (f : Fault), BlockInv s → step s = .fault f →
    ((f = .unwrittenSample ∧ nextEvent s = .engine ∧ s.phase = .scan ∧
        WindowHasUnwritten s s.sy.toNat s.sx.toNat) ∨
      (f = .unwrittenMosaicRead ∧ ∃ w i, nextEvent s = .transaction w ∧ decode w = .rdMosaic i ∧
        mosaicRead s i.toNat = none) ∨
      (f = .unwrittenRgbRead ∧ ∃ w i, nextEvent s = .transaction w ∧ decode w = .rdRgb i ∧
        rgbRead s i.toNat = none)) ∧
    ∀ n, runSteps (n + 1) s = .fault f

/-- No step is refused: every transaction class has its meaning. -/
def Obligations.NoStepIsRefused : Prop :=
  ∀ (s : State) (r : Refusal), step s ≠ .refused r
end

