-- ==== Sys2Proof/Laws/Decode.lean ====
section
/-! SUPPORT. The fields of a packed word, the offsets of the windows, and the classes they decode to. -/

namespace Sys2Proof

/-! ## Fields of a packed word (R80) -/

@[simp] theorem txnWe_packTxn (we : Bool) (addr : Addr) (wdata : Word) :
    txnWe (packTxn we addr wdata) = we := by
  simp only [txnWe, packTxn, BitVec.getLsbD_append]
  simp

@[simp] theorem txnAddr_packTxn (we : Bool) (addr : Addr) (wdata : Word) :
    txnAddr (packTxn we addr wdata) = addr := by
  apply BitVec.eq_of_getLsbD_eq
  intro i hi
  simp only [txnAddr, packTxn, BitVec.getLsbD_extractLsb', BitVec.getLsbD_append]
  have h1 : ¬ 32 + i < 32 := by omega
  have h2 : 32 + i - 32 = i := by omega
  simp [h1, h2, hi]

@[simp] theorem txnData_packTxn (we : Bool) (addr : Addr) (wdata : Word) :
    txnData (packTxn we addr wdata) = wdata := by
  apply BitVec.eq_of_getLsbD_eq
  intro i hi
  simp only [txnData, packTxn, BitVec.getLsbD_extractLsb', BitVec.getLsbD_append]
  simp [hi]

/-- A word is packed from its fields (R80). -/
theorem packTxn_fields (t : Txn) : packTxn (txnWe t) (txnAddr t) (txnData t) = t := by
  apply BitVec.eq_of_getLsbD_eq
  intro i hi
  simp only [txnWe, txnAddr, txnData, packTxn, BitVec.getLsbD_extractLsb', BitVec.getLsbD_append,
    BitVec.getLsbD_ofBool]
  by_cases h1 : i < 32
  · simp [h1]
  · by_cases h2 : i - 32 < 24
    · simp [h1, h2, show 32 + (i - 32) = i by omega]
    · have : i = 56 := by omega
      subst this
      simp

/-- Masking a packed word masks its fields (R85). -/
theorem packTxn_and (we we' : Bool) (a a' : Addr) (d d' : Word) :
    packTxn we a d &&& packTxn we' a' d' = packTxn (we && we') (a &&& a') (d &&& d') := by
  apply BitVec.eq_of_getLsbD_eq
  intro i hi
  simp only [packTxn, BitVec.getLsbD_and, BitVec.getLsbD_append, BitVec.getLsbD_ofBool]
  by_cases h1 : i < 32
  · simp [h1]
  · by_cases h2 : i - 32 < 24
    · simp [h1, h2]
    · have : i = 56 := by omega
      subst this
      simp

/-- Packed words are equal exactly when their fields are (R80). -/
theorem packTxn_inj {we we' : Bool} {a a' : Addr} {d d' : Word} :
    packTxn we a d = packTxn we' a' d' ↔ we = we' ∧ a = a' ∧ d = d' := by
  constructor
  · intro h
    refine ⟨?_, ?_, ?_⟩
    · simpa using congrArg txnWe h
    · simpa using congrArg txnAddr h
    · simpa using congrArg txnData h
  · rintro ⟨rfl, rfl, rfl⟩
    rfl

/-! ## Data fields (R82) -/

@[simp] theorem low8_append (hi : BitVec 24) (v : BitVec 8) :
    (hi ++ v : BitVec 32).extractLsb' 0 8 = v := by
  apply BitVec.eq_of_toNat_eq
  have h1 := hi.isLt
  have h2 := v.isLt
  simp only [BitVec.extractLsb'_toNat, Nat.shiftRight_zero]
  have h3 : (hi ++ v : BitVec 32).toNat = hi.toNat * 256 + v.toNat := by
    have : (hi ++ v : BitVec 32).toNat = hi.toNat <<< 8 ||| v.toNat := BitVec.toNat_append hi v
    rw [this, ← Nat.shiftLeft_add_eq_or_of_lt h2, Nat.shiftLeft_eq]
  rw [h3]
  omega

@[simp] theorem low16_append (hi : BitVec 16) (v : BitVec 16) :
    (hi ++ v : BitVec 32).extractLsb' 0 16 = v := by
  apply BitVec.eq_of_toNat_eq
  have h1 := hi.isLt
  have h2 := v.isLt
  simp only [BitVec.extractLsb'_toNat, Nat.shiftRight_zero]
  have h3 : (hi ++ v : BitVec 32).toNat = hi.toNat * 65536 + v.toNat := by
    have : (hi ++ v : BitVec 32).toNat = hi.toNat <<< 16 ||| v.toNat := BitVec.toNat_append hi v
    rw [this, ← Nat.shiftLeft_add_eq_or_of_lt h2, Nat.shiftLeft_eq]
  rw [h3]
  omega

/-! ## Classes of packed words -/

@[simp] theorem decode_packTxn (we : Bool) (addr : Addr) (wdata : Word) :
    decode (packTxn we addr wdata) = decodeFields we addr wdata := by
  simp [decode]

/-! ## Offsets (R61, R63) -/

@[simp] theorem lowBits_slotAddr (slot : WordSlot) (low : BitVec 2) :
    lowBits (slotAddr slot low) = low := by
  apply BitVec.eq_of_getLsbD_eq
  intro i hi
  simp only [lowBits, slotAddr, BitVec.getLsbD_extractLsb', BitVec.getLsbD_append]
  simp [hi]

@[simp] theorem wordSlotOf_slotAddr (slot : WordSlot) (low : BitVec 2) :
    wordSlotOf (slotAddr slot low) = slot := by
  apply BitVec.eq_of_getLsbD_eq
  intro i hi
  simp only [wordSlotOf, slotAddr, BitVec.getLsbD_extractLsb', BitVec.getLsbD_append]
  simp [hi, show ¬ 2 + i < 2 by omega,
    show 2 + i - 2 = i by omega]

/-- An offset is its word part and its low bits. -/
theorem slotAddr_parts (a : Addr) : slotAddr (wordSlotOf a) (lowBits a) = a := by
  apply BitVec.eq_of_getLsbD_eq
  intro i hi
  simp only [slotAddr, wordSlotOf, lowBits, BitVec.getLsbD_append, BitVec.getLsbD_extractLsb']
  by_cases h : i < 2
  · simp [h]
  · simp [h, show 2 + (i - 2) = i by omega, show i - 2 < 22 by omega]

@[simp] theorem lowBits_mosaicAddr (i : CellIndex) : lowBits (mosaicAddr i) = 0#2 := by
  apply BitVec.eq_of_getLsbD_eq
  intro k hk
  simp only [lowBits, mosaicAddr, BitVec.getLsbD_extractLsb', BitVec.getLsbD_append]
  simp [hk]

@[simp] theorem lowBits_rgbAddr (i : CellIndex) : lowBits (rgbAddr i) = 0#2 := by
  apply BitVec.eq_of_getLsbD_eq
  intro k hk
  simp only [lowBits, rgbAddr, BitVec.getLsbD_extractLsb', BitVec.getLsbD_append]
  simp [hk]

@[simp] theorem regionBits_mosaicAddr (i : CellIndex) : regionBits (mosaicAddr i) = 1#2 := by
  apply BitVec.eq_of_getLsbD_eq
  intro k hk
  simp only [regionBits, mosaicAddr, BitVec.getLsbD_extractLsb', BitVec.getLsbD_append]
  simp [hk, show ¬ 22 + k < 2 by omega,
    show ¬ 22 + k - 2 < 20 by omega, show 22 + k - 2 - 20 = k by omega]

@[simp] theorem regionBits_rgbAddr (i : CellIndex) : regionBits (rgbAddr i) = 2#2 := by
  apply BitVec.eq_of_getLsbD_eq
  intro k hk
  simp only [regionBits, rgbAddr, BitVec.getLsbD_extractLsb', BitVec.getLsbD_append]
  simp [hk, show ¬ 22 + k < 2 by omega,
    show ¬ 22 + k - 2 < 20 by omega, show 22 + k - 2 - 20 = k by omega]

@[simp] theorem cellIndexOf_mosaicAddr (i : CellIndex) : cellIndexOf (mosaicAddr i) = i := by
  apply BitVec.eq_of_getLsbD_eq
  intro k hk
  simp only [cellIndexOf, mosaicAddr, BitVec.getLsbD_extractLsb', BitVec.getLsbD_append]
  simp [hk, show ¬ 2 + k < 2 by omega,
    show 2 + k - 2 = k by omega]

@[simp] theorem cellIndexOf_rgbAddr (i : CellIndex) : cellIndexOf (rgbAddr i) = i := by
  apply BitVec.eq_of_getLsbD_eq
  intro k hk
  simp only [cellIndexOf, rgbAddr, BitVec.getLsbD_extractLsb', BitVec.getLsbD_append]
  simp [hk, show ¬ 2 + k < 2 by omega,
    show 2 + k - 2 = k by omega]

/-- The nine register offsets are aligned and lie in region 00 (R61). -/
theorem isRegisterAddr_region {a : Addr} (h : isRegisterAddr a = true) :
    lowBits a = 0#2 ∧ regionBits a = 0#2 := by
  simp only [isRegisterAddr, Bool.or_eq_true, beq_iff_eq] at h
  rcases h with (((((((h | h) | h) | h) | h) | h) | h) | h) | h <;> subst h <;> decide

/-- An offset has a register class exactly when it is a register offset (R84). -/
theorem decodeRegister_isSome (we : Bool) (a : Addr) (d : Word) :
    (decodeRegister we a d).isSome = isRegisterAddr a := by
  unfold decodeRegister isRegisterAddr
  by_cases h1 : a = idAddr
  · subst h1; cases we <;> rfl
  by_cases h2 : a = ctrlAddr
  · subst h2; cases we <;> rfl
  by_cases h3 : a = statusAddr
  · subst h3; cases we <;> rfl
  by_cases h4 : a = widthAddr
  · subst h4; cases we <;> rfl
  by_cases h5 : a = heightAddr
  · subst h5; cases we <;> rfl
  by_cases h6 : a = layoutAddr
  · subst h6; cases we <;> rfl
  by_cases h7 : a = irqenAddr
  · subst h7; cases we <;> rfl
  by_cases h8 : a = capacityAddr
  · subst h8; cases we <;> rfl
  by_cases h9 : a = erraddrAddr
  · subst h9; cases we <;> rfl
  simp [h1, h2, h3, h4, h5, h6, h7, h8, h9]

/-- No register class outside region 00, nor at a misaligned offset. -/
theorem decodeRegister_eq_none {a : Addr} (h : isRegisterAddr a = false) (we : Bool) (d : Word) :
    decodeRegister we a d = none := by
  rw [← Option.isNone_iff_eq_none, ← Bool.not_eq_false, ← Option.not_isSome, decodeRegister_isSome, h]
  decide

theorem isRegisterAddr_mosaicAddr (i : CellIndex) : isRegisterAddr (mosaicAddr i) = false := by
  rw [← Bool.not_eq_true]
  intro h
  have := (isRegisterAddr_region h).2
  rw [regionBits_mosaicAddr] at this
  exact absurd this (by decide)

theorem isRegisterAddr_rgbAddr (i : CellIndex) : isRegisterAddr (rgbAddr i) = false := by
  rw [← Bool.not_eq_true]
  intro h
  have := (isRegisterAddr_region h).2
  rw [regionBits_rgbAddr] at this
  exact absurd this (by decide)

/-- A transaction in the MOSAIC window (R83 step 3). -/
theorem decodeFields_mosaicAddr (we : Bool) (i : CellIndex) (d : Word) :
    decodeFields we (mosaicAddr i) d =
      if we then .wrMosaic i (d.extractLsb' 0 8) else .rdMosaic i := by
  simp [decodeFields, decodeAligned, decodeRegister_eq_none (isRegisterAddr_mosaicAddr i),
    inMosaicWindow]

/-- A transaction in the RGB window (R83 step 4). -/
theorem decodeFields_rgbAddr (we : Bool) (i : CellIndex) (d : Word) :
    decodeFields we (rgbAddr i) d = if we then .wrRgb i else .rdRgb i := by
  simp [decodeFields, decodeAligned, decodeRegister_eq_none (isRegisterAddr_rgbAddr i),
    inMosaicWindow, inRgbWindow]

/-- A transaction at an aligned offset of no region (R83 step 5). -/
theorem decodeFields_unmapped {a : Addr} (h : isUnmappedAddr a = true) (we : Bool) (d : Word) :
    decodeFields we a d = .errUnmapped we a := by
  simp only [isUnmappedAddr, Bool.and_eq_true, beq_iff_eq, Bool.not_eq_true'] at h
  obtain ⟨⟨⟨hl, hr⟩, hm⟩, hg⟩ := h
  simp [decodeFields, hl, decodeAligned, decodeRegister_eq_none hr, hm, hg]

/-- A transaction at a misaligned offset is of a misaligned class (R83 step 1). -/
theorem decodeFields_misaligned {a : Addr} (h : lowBits a ≠ 0#2) (we : Bool) (d : Word) :
    decodeFields we a d = .errMisaligned1 we (wordSlotOf a) ∧ lowBits a = 1#2 ∨
      decodeFields we a d = .errMisaligned2 we (wordSlotOf a) ∧ lowBits a = 2#2 ∨
      decodeFields we a d = .errMisaligned3 we (wordSlotOf a) ∧ lowBits a = 3#2 := by
  have hb : ∀ b : BitVec 2, b = 0#2 ∨ b = 1#2 ∨ b = 2#2 ∨ b = 3#2 := by decide
  rcases hb (lowBits a) with h0 | h1 | h2 | h3
  · exact absurd h0 h
  · left; simp [decodeFields, h1]
  · right; left; simp [decodeFields, h2]
  · right; right; simp [decodeFields, h3]

end Sys2Proof
end

