-- ==== Sys2Proof/Laws/State.lean ====
section
/-! SUPPORT. One lemma per field per named update of the state, each true by unfolding the update once. -/

namespace Sys2Proof.Machine

open Sys2Proof

/-! ## respond -/

@[simp] theorem respond_memPixels (r : Resp) (d : Word) (s : State) :
    (respond r d s).memPixels = s.memPixels := rfl
@[simp] theorem respond_widthR (r : Resp) (d : Word) (s : State) :
    (respond r d s).widthR = s.widthR := rfl
@[simp] theorem respond_heightR (r : Resp) (d : Word) (s : State) :
    (respond r d s).heightR = s.heightR := rfl
@[simp] theorem respond_layoutR (r : Resp) (d : Word) (s : State) :
    (respond r d s).layoutR = s.layoutR := rfl
@[simp] theorem respond_doneIe (r : Resp) (d : Word) (s : State) :
    (respond r d s).doneIe = s.doneIe := rfl
@[simp] theorem respond_errIe (r : Resp) (d : Word) (s : State) :
    (respond r d s).errIe = s.errIe := rfl
@[simp] theorem respond_accIe (r : Resp) (d : Word) (s : State) :
    (respond r d s).accIe = s.accIe := rfl
@[simp] theorem respond_done (r : Resp) (d : Word) (s : State) :
    (respond r d s).done = s.done := rfl
@[simp] theorem respond_err (r : Resp) (d : Word) (s : State) :
    (respond r d s).err = s.err := rfl
@[simp] theorem respond_accErr (r : Resp) (d : Word) (s : State) :
    (respond r d s).accErr = s.accErr := rfl
@[simp] theorem respond_accCause (r : Resp) (d : Word) (s : State) :
    (respond r d s).accCause = s.accCause := rfl
@[simp] theorem respond_errAddr (r : Resp) (d : Word) (s : State) :
    (respond r d s).errAddr = s.errAddr := rfl
@[simp] theorem respond_errWe (r : Resp) (d : Word) (s : State) :
    (respond r d s).errWe = s.errWe := rfl
@[simp] theorem respond_phase (r : Resp) (d : Word) (s : State) :
    (respond r d s).phase = s.phase := rfl
@[simp] theorem respond_cidx (r : Resp) (d : Word) (s : State) :
    (respond r d s).cidx = s.cidx := rfl
@[simp] theorem respond_sy (r : Resp) (d : Word) (s : State) :
    (respond r d s).sy = s.sy := rfl
@[simp] theorem respond_sx (r : Resp) (d : Word) (s : State) :
    (respond r d s).sx = s.sx := rfl
@[simp] theorem respond_mosaic (r : Resp) (d : Word) (s : State) :
    (respond r d s).mosaic = s.mosaic := rfl
@[simp] theorem respond_rgb (r : Resp) (d : Word) (s : State) :
    (respond r d s).rgb = s.rgb := rfl
@[simp] theorem respond_events (r : Resp) (d : Word) (s : State) :
    (respond r d s).events = s.events := rfl
@[simp] theorem respond_responses (r : Resp) (d : Word) (s : State) :
    (respond r d s).responses = s.responses ++ [⟨r, d⟩] := rfl

/-! ## mosaicWrite -/

@[simp] theorem mosaicWrite_memPixels (i : Nat) (v : Byte) (s : State) :
    (mosaicWrite i v s).memPixels = s.memPixels := rfl
@[simp] theorem mosaicWrite_widthR (i : Nat) (v : Byte) (s : State) :
    (mosaicWrite i v s).widthR = s.widthR := rfl
@[simp] theorem mosaicWrite_heightR (i : Nat) (v : Byte) (s : State) :
    (mosaicWrite i v s).heightR = s.heightR := rfl
@[simp] theorem mosaicWrite_layoutR (i : Nat) (v : Byte) (s : State) :
    (mosaicWrite i v s).layoutR = s.layoutR := rfl
@[simp] theorem mosaicWrite_doneIe (i : Nat) (v : Byte) (s : State) :
    (mosaicWrite i v s).doneIe = s.doneIe := rfl
@[simp] theorem mosaicWrite_errIe (i : Nat) (v : Byte) (s : State) :
    (mosaicWrite i v s).errIe = s.errIe := rfl
@[simp] theorem mosaicWrite_accIe (i : Nat) (v : Byte) (s : State) :
    (mosaicWrite i v s).accIe = s.accIe := rfl
@[simp] theorem mosaicWrite_done (i : Nat) (v : Byte) (s : State) :
    (mosaicWrite i v s).done = s.done := rfl
@[simp] theorem mosaicWrite_err (i : Nat) (v : Byte) (s : State) :
    (mosaicWrite i v s).err = s.err := rfl
@[simp] theorem mosaicWrite_accErr (i : Nat) (v : Byte) (s : State) :
    (mosaicWrite i v s).accErr = s.accErr := rfl
@[simp] theorem mosaicWrite_accCause (i : Nat) (v : Byte) (s : State) :
    (mosaicWrite i v s).accCause = s.accCause := rfl
@[simp] theorem mosaicWrite_errAddr (i : Nat) (v : Byte) (s : State) :
    (mosaicWrite i v s).errAddr = s.errAddr := rfl
@[simp] theorem mosaicWrite_errWe (i : Nat) (v : Byte) (s : State) :
    (mosaicWrite i v s).errWe = s.errWe := rfl
@[simp] theorem mosaicWrite_phase (i : Nat) (v : Byte) (s : State) :
    (mosaicWrite i v s).phase = s.phase := rfl
@[simp] theorem mosaicWrite_cidx (i : Nat) (v : Byte) (s : State) :
    (mosaicWrite i v s).cidx = s.cidx := rfl
@[simp] theorem mosaicWrite_sy (i : Nat) (v : Byte) (s : State) :
    (mosaicWrite i v s).sy = s.sy := rfl
@[simp] theorem mosaicWrite_sx (i : Nat) (v : Byte) (s : State) :
    (mosaicWrite i v s).sx = s.sx := rfl
@[simp] theorem mosaicWrite_mosaic (i : Nat) (v : Byte) (s : State) :
    (mosaicWrite i v s).mosaic = Memory.write s.mosaic i v := rfl
@[simp] theorem mosaicWrite_rgb (i : Nat) (v : Byte) (s : State) :
    (mosaicWrite i v s).rgb = s.rgb := rfl
@[simp] theorem mosaicWrite_events (i : Nat) (v : Byte) (s : State) :
    (mosaicWrite i v s).events = s.events := rfl
@[simp] theorem mosaicWrite_responses (i : Nat) (v : Byte) (s : State) :
    (mosaicWrite i v s).responses = s.responses := rfl

/-! ## rgbWrite -/

@[simp] theorem rgbWrite_memPixels (i : Nat) (p : Pixel) (s : State) :
    (rgbWrite i p s).memPixels = s.memPixels := rfl
@[simp] theorem rgbWrite_widthR (i : Nat) (p : Pixel) (s : State) :
    (rgbWrite i p s).widthR = s.widthR := rfl
@[simp] theorem rgbWrite_heightR (i : Nat) (p : Pixel) (s : State) :
    (rgbWrite i p s).heightR = s.heightR := rfl
@[simp] theorem rgbWrite_layoutR (i : Nat) (p : Pixel) (s : State) :
    (rgbWrite i p s).layoutR = s.layoutR := rfl
@[simp] theorem rgbWrite_doneIe (i : Nat) (p : Pixel) (s : State) :
    (rgbWrite i p s).doneIe = s.doneIe := rfl
@[simp] theorem rgbWrite_errIe (i : Nat) (p : Pixel) (s : State) :
    (rgbWrite i p s).errIe = s.errIe := rfl
@[simp] theorem rgbWrite_accIe (i : Nat) (p : Pixel) (s : State) :
    (rgbWrite i p s).accIe = s.accIe := rfl
@[simp] theorem rgbWrite_done (i : Nat) (p : Pixel) (s : State) :
    (rgbWrite i p s).done = s.done := rfl
@[simp] theorem rgbWrite_err (i : Nat) (p : Pixel) (s : State) :
    (rgbWrite i p s).err = s.err := rfl
@[simp] theorem rgbWrite_accErr (i : Nat) (p : Pixel) (s : State) :
    (rgbWrite i p s).accErr = s.accErr := rfl
@[simp] theorem rgbWrite_accCause (i : Nat) (p : Pixel) (s : State) :
    (rgbWrite i p s).accCause = s.accCause := rfl
@[simp] theorem rgbWrite_errAddr (i : Nat) (p : Pixel) (s : State) :
    (rgbWrite i p s).errAddr = s.errAddr := rfl
@[simp] theorem rgbWrite_errWe (i : Nat) (p : Pixel) (s : State) :
    (rgbWrite i p s).errWe = s.errWe := rfl
@[simp] theorem rgbWrite_phase (i : Nat) (p : Pixel) (s : State) :
    (rgbWrite i p s).phase = s.phase := rfl
@[simp] theorem rgbWrite_cidx (i : Nat) (p : Pixel) (s : State) :
    (rgbWrite i p s).cidx = s.cidx := rfl
@[simp] theorem rgbWrite_sy (i : Nat) (p : Pixel) (s : State) :
    (rgbWrite i p s).sy = s.sy := rfl
@[simp] theorem rgbWrite_sx (i : Nat) (p : Pixel) (s : State) :
    (rgbWrite i p s).sx = s.sx := rfl
@[simp] theorem rgbWrite_mosaic (i : Nat) (p : Pixel) (s : State) :
    (rgbWrite i p s).mosaic = s.mosaic := rfl
@[simp] theorem rgbWrite_rgb (i : Nat) (p : Pixel) (s : State) :
    (rgbWrite i p s).rgb = Memory.write s.rgb i p := rfl
@[simp] theorem rgbWrite_events (i : Nat) (p : Pixel) (s : State) :
    (rgbWrite i p s).events = s.events := rfl
@[simp] theorem rgbWrite_responses (i : Nat) (p : Pixel) (s : State) :
    (rgbWrite i p s).responses = s.responses := rfl

/-! ## doClear -/

@[simp] theorem doClear_memPixels (s : State) :
    (doClear s).memPixels = s.memPixels := rfl
@[simp] theorem doClear_widthR (s : State) :
    (doClear s).widthR = s.widthR := rfl
@[simp] theorem doClear_heightR (s : State) :
    (doClear s).heightR = s.heightR := rfl
@[simp] theorem doClear_layoutR (s : State) :
    (doClear s).layoutR = s.layoutR := rfl
@[simp] theorem doClear_doneIe (s : State) :
    (doClear s).doneIe = s.doneIe := rfl
@[simp] theorem doClear_errIe (s : State) :
    (doClear s).errIe = s.errIe := rfl
@[simp] theorem doClear_accIe (s : State) :
    (doClear s).accIe = s.accIe := rfl
@[simp] theorem doClear_done (s : State) :
    (doClear s).done = false := rfl
@[simp] theorem doClear_err (s : State) :
    (doClear s).err = .none := rfl
@[simp] theorem doClear_accErr (s : State) :
    (doClear s).accErr = false := rfl
@[simp] theorem doClear_accCause (s : State) :
    (doClear s).accCause = .none := rfl
@[simp] theorem doClear_errAddr (s : State) :
    (doClear s).errAddr = 0 := rfl
@[simp] theorem doClear_errWe (s : State) :
    (doClear s).errWe = false := rfl
@[simp] theorem doClear_phase (s : State) :
    (doClear s).phase = s.phase := rfl
@[simp] theorem doClear_cidx (s : State) :
    (doClear s).cidx = s.cidx := rfl
@[simp] theorem doClear_sy (s : State) :
    (doClear s).sy = s.sy := rfl
@[simp] theorem doClear_sx (s : State) :
    (doClear s).sx = s.sx := rfl
@[simp] theorem doClear_mosaic (s : State) :
    (doClear s).mosaic = s.mosaic := rfl
@[simp] theorem doClear_rgb (s : State) :
    (doClear s).rgb = s.rgb := rfl
@[simp] theorem doClear_events (s : State) :
    (doClear s).events = s.events := rfl
@[simp] theorem doClear_responses (s : State) :
    (doClear s).responses = s.responses := rfl

/-! ## finish -/

@[simp] theorem finish_memPixels (s : State) :
    (finish s).memPixels = s.memPixels := rfl
@[simp] theorem finish_widthR (s : State) :
    (finish s).widthR = s.widthR := rfl
@[simp] theorem finish_heightR (s : State) :
    (finish s).heightR = s.heightR := rfl
@[simp] theorem finish_layoutR (s : State) :
    (finish s).layoutR = s.layoutR := rfl
@[simp] theorem finish_doneIe (s : State) :
    (finish s).doneIe = s.doneIe := rfl
@[simp] theorem finish_errIe (s : State) :
    (finish s).errIe = s.errIe := rfl
@[simp] theorem finish_accIe (s : State) :
    (finish s).accIe = s.accIe := rfl
@[simp] theorem finish_done (s : State) :
    (finish s).done = true := rfl
@[simp] theorem finish_err (s : State) :
    (finish s).err = s.err := rfl
@[simp] theorem finish_accErr (s : State) :
    (finish s).accErr = s.accErr := rfl
@[simp] theorem finish_accCause (s : State) :
    (finish s).accCause = s.accCause := rfl
@[simp] theorem finish_errAddr (s : State) :
    (finish s).errAddr = s.errAddr := rfl
@[simp] theorem finish_errWe (s : State) :
    (finish s).errWe = s.errWe := rfl
@[simp] theorem finish_phase (s : State) :
    (finish s).phase = .idle := rfl
@[simp] theorem finish_cidx (s : State) :
    (finish s).cidx = s.cidx := rfl
@[simp] theorem finish_sy (s : State) :
    (finish s).sy = s.sy := rfl
@[simp] theorem finish_sx (s : State) :
    (finish s).sx = s.sx := rfl
@[simp] theorem finish_mosaic (s : State) :
    (finish s).mosaic = s.mosaic := rfl
@[simp] theorem finish_rgb (s : State) :
    (finish s).rgb = s.rgb := rfl
@[simp] theorem finish_events (s : State) :
    (finish s).events = s.events := rfl
@[simp] theorem finish_responses (s : State) :
    (finish s).responses = s.responses := rfl

/-! ## dropEvent -/

@[simp] theorem dropEvent_memPixels (s : State) :
    (dropEvent s).memPixels = s.memPixels := rfl
@[simp] theorem dropEvent_widthR (s : State) :
    (dropEvent s).widthR = s.widthR := rfl
@[simp] theorem dropEvent_heightR (s : State) :
    (dropEvent s).heightR = s.heightR := rfl
@[simp] theorem dropEvent_layoutR (s : State) :
    (dropEvent s).layoutR = s.layoutR := rfl
@[simp] theorem dropEvent_doneIe (s : State) :
    (dropEvent s).doneIe = s.doneIe := rfl
@[simp] theorem dropEvent_errIe (s : State) :
    (dropEvent s).errIe = s.errIe := rfl
@[simp] theorem dropEvent_accIe (s : State) :
    (dropEvent s).accIe = s.accIe := rfl
@[simp] theorem dropEvent_done (s : State) :
    (dropEvent s).done = s.done := rfl
@[simp] theorem dropEvent_err (s : State) :
    (dropEvent s).err = s.err := rfl
@[simp] theorem dropEvent_accErr (s : State) :
    (dropEvent s).accErr = s.accErr := rfl
@[simp] theorem dropEvent_accCause (s : State) :
    (dropEvent s).accCause = s.accCause := rfl
@[simp] theorem dropEvent_errAddr (s : State) :
    (dropEvent s).errAddr = s.errAddr := rfl
@[simp] theorem dropEvent_errWe (s : State) :
    (dropEvent s).errWe = s.errWe := rfl
@[simp] theorem dropEvent_phase (s : State) :
    (dropEvent s).phase = s.phase := rfl
@[simp] theorem dropEvent_cidx (s : State) :
    (dropEvent s).cidx = s.cidx := rfl
@[simp] theorem dropEvent_sy (s : State) :
    (dropEvent s).sy = s.sy := rfl
@[simp] theorem dropEvent_sx (s : State) :
    (dropEvent s).sx = s.sx := rfl
@[simp] theorem dropEvent_mosaic (s : State) :
    (dropEvent s).mosaic = s.mosaic := rfl
@[simp] theorem dropEvent_rgb (s : State) :
    (dropEvent s).rgb = s.rgb := rfl
@[simp] theorem dropEvent_events (s : State) :
    (dropEvent s).events = s.events.tail := rfl
@[simp] theorem dropEvent_responses (s : State) :
    (dropEvent s).responses = s.responses := rfl

/-! ## resetBlock -/

@[simp] theorem resetBlock_memPixels (s : State) :
    (resetBlock s).memPixels = s.memPixels := rfl
@[simp] theorem resetBlock_widthR (s : State) :
    (resetBlock s).widthR = State.reset.widthR := rfl
@[simp] theorem resetBlock_heightR (s : State) :
    (resetBlock s).heightR = State.reset.heightR := rfl
@[simp] theorem resetBlock_layoutR (s : State) :
    (resetBlock s).layoutR = State.reset.layoutR := rfl
@[simp] theorem resetBlock_doneIe (s : State) :
    (resetBlock s).doneIe = State.reset.doneIe := rfl
@[simp] theorem resetBlock_errIe (s : State) :
    (resetBlock s).errIe = State.reset.errIe := rfl
@[simp] theorem resetBlock_accIe (s : State) :
    (resetBlock s).accIe = State.reset.accIe := rfl
@[simp] theorem resetBlock_done (s : State) :
    (resetBlock s).done = State.reset.done := rfl
@[simp] theorem resetBlock_err (s : State) :
    (resetBlock s).err = State.reset.err := rfl
@[simp] theorem resetBlock_accErr (s : State) :
    (resetBlock s).accErr = State.reset.accErr := rfl
@[simp] theorem resetBlock_accCause (s : State) :
    (resetBlock s).accCause = State.reset.accCause := rfl
@[simp] theorem resetBlock_errAddr (s : State) :
    (resetBlock s).errAddr = State.reset.errAddr := rfl
@[simp] theorem resetBlock_errWe (s : State) :
    (resetBlock s).errWe = State.reset.errWe := rfl
@[simp] theorem resetBlock_phase (s : State) :
    (resetBlock s).phase = State.reset.phase := rfl
@[simp] theorem resetBlock_cidx (s : State) :
    (resetBlock s).cidx = State.reset.cidx := rfl
@[simp] theorem resetBlock_sy (s : State) :
    (resetBlock s).sy = State.reset.sy := rfl
@[simp] theorem resetBlock_sx (s : State) :
    (resetBlock s).sx = State.reset.sx := rfl
@[simp] theorem resetBlock_mosaic (s : State) :
    (resetBlock s).mosaic = State.reset.mosaic := rfl
@[simp] theorem resetBlock_rgb (s : State) :
    (resetBlock s).rgb = State.reset.rgb := rfl
@[simp] theorem resetBlock_events (s : State) :
    (resetBlock s).events = s.events := rfl
@[simp] theorem resetBlock_responses (s : State) :
    (resetBlock s).responses = s.responses := rfl

/-! ## The reset state (R251) -/

@[simp] theorem reset_memPixels : State.reset.memPixels = Config.memPixels := rfl
@[simp] theorem reset_widthR : State.reset.widthR = 0 := rfl
@[simp] theorem reset_heightR : State.reset.heightR = 0 := rfl
@[simp] theorem reset_layoutR : State.reset.layoutR = 0 := rfl
@[simp] theorem reset_doneIe : State.reset.doneIe = false := rfl
@[simp] theorem reset_errIe : State.reset.errIe = false := rfl
@[simp] theorem reset_accIe : State.reset.accIe = false := rfl
@[simp] theorem reset_done : State.reset.done = false := rfl
@[simp] theorem reset_err : State.reset.err = .none := rfl
@[simp] theorem reset_accErr : State.reset.accErr = false := rfl
@[simp] theorem reset_accCause : State.reset.accCause = .none := rfl
@[simp] theorem reset_errAddr : State.reset.errAddr = 0 := rfl
@[simp] theorem reset_errWe : State.reset.errWe = false := rfl
@[simp] theorem reset_phase : State.reset.phase = .idle := rfl
@[simp] theorem reset_cidx : State.reset.cidx = 0 := rfl
@[simp] theorem reset_sy : State.reset.sy = 0 := rfl
@[simp] theorem reset_sx : State.reset.sx = 0 := rfl
@[simp] theorem reset_mosaic : State.reset.mosaic = [] := rfl
@[simp] theorem reset_rgb : State.reset.rgb = [] := rfl
@[simp] theorem reset_events : State.reset.events = [] := rfl
@[simp] theorem reset_responses : State.reset.responses = [] := rfl

/-- MEM_PIXELS of the machine is in its range (R6). -/
theorem config_memPixels_range : 9 ≤ Config.memPixels ∧ Config.memPixels ≤ 2 ^ 20 := by
  have h := Config.memPixelsChoice.isLt
  unfold Config.memPixels
  omega

end Sys2Proof.Machine
end

