-- ==== Sys2Proof/Laws/Memory.lean ====
section
/-! SUPPORT. The laws of the cell memories: read after write, and the canonical form every operation keeps. -/

namespace Sys2Proof.Machine

open Sys2Proof

/-! ## Read after write -/

@[simp] theorem Memory.read_nil {α : Type} (i : Nat) : Memory.read ([] : Memory α) i = none := rfl

/-- A listed index at least `lo` is all a rising memory can answer. -/
theorem Memory.read_eq_none_of_rising {α : Type} {m : Memory α} {lo i : Nat}
    (h : Memory.risingFrom lo m = true) (hi : i < lo) : Memory.read m i = none := by
  induction m generalizing lo with
  | nil => rfl
  | cons c m ih =>
    obtain ⟨j, v⟩ := c
    simp only [Memory.risingFrom, Bool.and_eq_true, decide_eq_true_eq] at h
    have hne : j ≠ i := by omega
    simp only [Memory.read, hne, if_false]
    exact ih h.2 (by omega)

theorem Memory.read_write_same {α : Type} (m : Memory α) (i : Nat) (v : α) :
    Memory.read (Memory.write m i v) i = some v := by
  induction m with
  | nil => simp [Memory.write, Memory.read]
  | cons c m ih =>
    obtain ⟨j, w⟩ := c
    simp only [Memory.write]
    split
    · simp [Memory.read]
    · split
      · simp [Memory.read]
      · rename_i h1 h2
        have hne : j ≠ i := fun h => h2 h.symm
        simpa [Memory.read, hne] using ih

theorem Memory.read_write_other {α : Type} (m : Memory α) {i j : Nat} (v : α) (h : j ≠ i) :
    Memory.read (Memory.write m i v) j = Memory.read m j := by
  induction m with
  | nil => simp [Memory.write, Memory.read, Ne.symm h]
  | cons c m ih =>
    obtain ⟨k, w⟩ := c
    simp only [Memory.write]
    split
    · simp [Memory.read, Ne.symm h]
    · split
      · rename_i h1 h2
        subst h2
        simp [Memory.read, Ne.symm h]
      · by_cases hk : k = j
        · simp [Memory.read, hk]
        · simpa [Memory.read, hk] using ih

/-! ## The canonical form -/

theorem Memory.risingFrom_mono {α : Type} {m : Memory α} {lo lo' : Nat}
    (h : Memory.risingFrom lo m = true) (hle : lo' ≤ lo) : Memory.risingFrom lo' m = true := by
  cases m with
  | nil => rfl
  | cons c m =>
    obtain ⟨j, v⟩ := c
    simp only [Memory.risingFrom, Bool.and_eq_true, decide_eq_true_eq] at h ⊢
    exact ⟨by omega, h.2⟩

theorem Memory.risingFrom_write {α : Type} {m : Memory α} {lo i : Nat} (v : α)
    (h : Memory.risingFrom lo m = true) (hi : lo ≤ i) :
    Memory.risingFrom lo (Memory.write m i v) = true := by
  induction m generalizing lo with
  | nil => simpa [Memory.write, Memory.risingFrom] using hi
  | cons c m ih =>
    obtain ⟨j, w⟩ := c
    simp only [Memory.risingFrom, Bool.and_eq_true, decide_eq_true_eq] at h
    simp only [Memory.write]
    split
    · simp only [Memory.risingFrom, Bool.and_eq_true, decide_eq_true_eq]
      exact ⟨hi, by omega, h.2⟩
    · split
      · rename_i h1 h2
        subst h2
        simp only [Memory.risingFrom, Bool.and_eq_true, decide_eq_true_eq]
        exact ⟨hi, h.2⟩
      · simp only [Memory.risingFrom, Bool.and_eq_true, decide_eq_true_eq]
        exact ⟨h.1, ih h.2 (by omega)⟩

@[simp] theorem Memory.wf_nil {α : Type} : Memory.wf ([] : Memory α) = true := rfl

/-- Every write keeps the canonical form. -/
theorem Memory.wf_write {α : Type} {m : Memory α} (i : Nat) (v : α) (h : Memory.wf m = true) :
    Memory.wf (Memory.write m i v) = true :=
  Memory.risingFrom_write v h (Nat.zero_le i)

@[simp] theorem Memory.below_nil {α : Type} (n : Nat) : Memory.below n ([] : Memory α) = true := rfl

/-- A write to a cell that exists lists only cells that exist. -/
theorem Memory.below_write {α : Type} {m : Memory α} {n i : Nat} (v : α)
    (h : Memory.below n m = true) (hi : i < n) : Memory.below n (Memory.write m i v) = true := by
  induction m with
  | nil => simpa [Memory.write, Memory.below] using hi
  | cons c m ih =>
    obtain ⟨j, w⟩ := c
    simp only [Memory.below, List.all_cons, Bool.and_eq_true, decide_eq_true_eq] at h ih ⊢
    simp only [Memory.write]
    split
    · simp only [List.all_cons, Bool.and_eq_true, decide_eq_true_eq]
      exact ⟨hi, h.1, h.2⟩
    · split
      · simp only [List.all_cons, Bool.and_eq_true, decide_eq_true_eq]
        exact ⟨hi, h.2⟩
      · simp only [List.all_cons, Bool.and_eq_true, decide_eq_true_eq]
        exact ⟨h.1, ih h.2⟩

/-- In canonical form, memories that read the same are the same data. -/
theorem Memory.ext_of_rising {α : Type} {m m' : Memory α} {lo : Nat}
    (h : Memory.risingFrom lo m = true) (h' : Memory.risingFrom lo m' = true)
    (heq : ∀ i, Memory.read m i = Memory.read m' i) : m = m' := by
  induction m generalizing lo m' with
  | nil =>
    cases m' with
    | nil => rfl
    | cons c m' =>
      have := heq c.1
      simp [Memory.read] at this
  | cons c m ih =>
    obtain ⟨j, v⟩ := c
    cases m' with
    | nil =>
      have := heq j
      simp [Memory.read] at this
    | cons c' m' =>
      obtain ⟨k, w⟩ := c'
      simp only [Memory.risingFrom, Bool.and_eq_true, decide_eq_true_eq] at h h'
      have hjk : j = k := by
        rcases Nat.lt_trichotomy j k with hlt | he | hgt
        · have := heq j
          rw [Memory.read, if_pos rfl, Memory.read, if_neg (by omega),
            Memory.read_eq_none_of_rising h'.2 (by omega)] at this
          simp at this
        · exact he
        · have := heq k
          rw [Memory.read, if_neg (by omega), Memory.read, if_pos rfl,
            Memory.read_eq_none_of_rising h.2 (by omega)] at this
          simp at this
      subst hjk
      have hv : v = w := by
        have := heq j
        simpa [Memory.read] using this
      subst hv
      congr 1
      refine ih h.2 h'.2 fun i => ?_
      by_cases hi : j = i
      · subst hi
        rw [Memory.read_eq_none_of_rising h.2 (by omega),
          Memory.read_eq_none_of_rising h'.2 (by omega)]
      · have := heq i
        simpa [Memory.read, hi] using this

/-- Equal reads, equal data. -/
theorem Memory.ext_of_wf {α : Type} {m m' : Memory α} (h : Memory.wf m = true)
    (h' : Memory.wf m' = true) (heq : ∀ i, Memory.read m i = Memory.read m' i) : m = m' :=
  Memory.ext_of_rising h h' heq

/-! ## The cells of the block -/

theorem mosaicRead_mosaicWrite_same {s : State} {i : Nat} (v : Byte) (h : i < s.memPixels) :
    mosaicRead (mosaicWrite i v s) i = some v := by
  simp [mosaicRead, h, Memory.read_write_same]

theorem mosaicRead_mosaicWrite_other {s : State} {i j : Nat} (v : Byte) (h : j ≠ i) :
    mosaicRead (mosaicWrite i v s) j = mosaicRead s j := by
  simp [mosaicRead, Memory.read_write_other _ _ h]

theorem rgbRead_rgbWrite_same {s : State} {i : Nat} (p : Pixel) (h : i < s.memPixels) :
    rgbRead (rgbWrite i p s) i = some p := by
  simp [rgbRead, h, Memory.read_write_same]

theorem rgbRead_rgbWrite_other {s : State} {i j : Nat} (p : Pixel) (h : j ≠ i) :
    rgbRead (rgbWrite i p s) j = rgbRead s j := by
  simp [rgbRead, Memory.read_write_other _ _ h]

@[simp] theorem rgbRead_mosaicWrite (s : State) (i j : Nat) (v : Byte) :
    rgbRead (mosaicWrite i v s) j = rgbRead s j := rfl

@[simp] theorem mosaicRead_rgbWrite (s : State) (i j : Nat) (p : Pixel) :
    mosaicRead (rgbWrite i p s) j = mosaicRead s j := rfl

@[simp] theorem mosaicRead_reset (i : Nat) : mosaicRead State.reset i = none := by
  unfold mosaicRead; split <;> rfl

@[simp] theorem rgbRead_reset (i : Nat) : rgbRead State.reset i = none := by
  unfold rgbRead; split <;> rfl

/-- Two states with the same MOSAIC and the same parameter read the same samples. -/
theorem mosaicRead_congr {s t : State} (hm : t.memPixels = s.memPixels) (hc : t.mosaic = s.mosaic)
    (i : Nat) : mosaicRead t i = mosaicRead s i := by
  simp [mosaicRead, hm, hc]

/-- Two states with the same RGB and the same parameter read the same pixels. -/
theorem rgbRead_congr {s t : State} (hm : t.memPixels = s.memPixels) (hc : t.rgb = s.rgb)
    (i : Nat) : rgbRead t i = rgbRead s i := by
  simp [rgbRead, hm, hc]

end Sys2Proof.Machine
end

