-- ==== Sys2Proof/Laws/Ops.lean ====
section
/-! SUPPORT. For each shared operation of the transactions, one lemma that says all it can do. -/

namespace Sys2Proof.Machine

open Sys2Proof Host

/-! ## BUSY -/

theorem busy_eq_false_iff (s : State) : busy s = false ↔ s.phase = .idle := by
  unfold busy; cases s.phase <;> simp

theorem busy_eq_true_iff (s : State) : busy s = true ↔ s.phase ≠ .idle := by
  unfold busy; cases s.phase <;> simp

/-- BUSY depends on PHASE alone (R25). -/
theorem busy_congr {s t : State} (h : t.phase = s.phase) : busy t = busy s := by
  unfold busy; rw [h]

@[simp] theorem busy_respond (r : Resp) (d : Word) (s : State) : busy (respond r d s) = busy s := rfl

@[simp] theorem busy_doClear (s : State) : busy (doClear s) = busy s := rfl

@[simp] theorem busy_finish (s : State) : busy (finish s) = false := rfl

@[simp] theorem busy_dropEvent (s : State) : busy (dropEvent s) = busy s := rfl

@[simp] theorem busy_resetBlock (s : State) : busy (resetBlock s) = false := rfl

/-! ## The access-error record -/

/-- The first error is recorded, a later one is not (R223). -/
theorem recordAccessError_cases (cause : AccCause) (we : Bool) (addr : Addr) (s : State) :
    (s.accErr = true ∧ recordAccessError cause we addr s = s) ∨
      (s.accErr = false ∧ recordAccessError cause we addr s =
        { s with accErr := true, accCause := cause, errAddr := addr, errWe := we }) := by
  unfold recordAccessError
  cases h : s.accErr <;> simp

/-- After a capture ACCERR is 1 (R223). -/
@[simp] theorem recordAccessError_accErr (cause : AccCause) (we : Bool) (addr : Addr) (s : State) :
    (recordAccessError cause we addr s).accErr = true := by
  rcases recordAccessError_cases cause we addr s with ⟨h, he⟩ | ⟨_, he⟩ <;> rw [he]
  exact h

/-- A capture changes nothing but the four fields of the record (R223). -/
theorem recordAccessError_frame (cause : AccCause) (we : Bool) (addr : Addr) (s : State) :
    recordAccessError cause we addr s =
      { s with
        accErr := (recordAccessError cause we addr s).accErr
        accCause := (recordAccessError cause we addr s).accCause
        errAddr := (recordAccessError cause we addr s).errAddr
        errWe := (recordAccessError cause we addr s).errWe } := by
  rcases recordAccessError_cases cause we addr s with ⟨_, he⟩ | ⟨_, he⟩ <;> rw [he]

/-- All an access error does: the record, and the ERROR response with rdata 0 (R223). -/
theorem raiseAccessError_eq (cause : AccCause) (we : Bool) (addr : Addr) (s : State) :
    raiseAccessError cause we addr s = .next (respond .error 0 (recordAccessError cause we addr s)) :=
  rfl

theorem answerOkay_eq (d : Word) (s : State) :
    answerOkay d s = (.next (respond .okay d s) : Outcome State Fault Refusal) := rfl

/-! ## Frozen registers -/

/-- All a write to a frozen register does (R170, R258). -/
theorem writeFrozen_cases (addr : Addr) (store : State → State) (s : State) :
    (busy s = true ∧ writeFrozen addr store s = raiseAccessError .busy true addr s) ∨
      (busy s = false ∧ writeFrozen addr store s = answerOkay 0 (store s)) := by
  unfold writeFrozen
  cases h : busy s <;> simp

/-! ## Windows -/

theorem cellExists_iff (s : State) (i : CellIndex) :
    cellExists s i = true ↔ i.toNat < s.memPixels := by
  unfold cellExists cellNumber
  exact decide_eq_true_iff

/-- All a window access can do: RANGE, BUSY, or its effect (R205, R206, R222). -/
theorem windowAccess_cases (we : Bool) (addr : Addr) (index : CellIndex)
    (effect : State → Outcome State Fault Refusal) (s : State) :
    (cellExists s index = false ∧
        windowAccess we addr index effect s = raiseAccessError .range we addr s) ∨
      (cellExists s index = true ∧ busy s = true ∧
        windowAccess we addr index effect s = raiseAccessError .busy we addr s) ∨
      (cellExists s index = true ∧ busy s = false ∧
        windowAccess we addr index effect s = effect s) := by
  unfold windowAccess
  cases h : cellExists s index <;> cases hb : busy s <;> simp

/-! ## START -/

/-- ConfigCheck finds nothing exactly when the configuration is valid (R227, R255). -/
theorem configCheck_eq_none_iff (s : State) :
    configCheck s = .none ↔
      1 ≤ s.widthR.toNat ∧ 1 ≤ s.heightR.toNat ∧
        s.widthR.toNat * s.heightR.toNat ≤ s.memPixels ∧ s.layoutR.toNat ≤ 3 := by
  have hz : ∀ d : Dim, d = 0 ↔ d.toNat = 0 := fun d => by
    constructor
    · intro h; simp [h]
    · intro h; exact BitVec.eq_of_toNat_eq (by simpa using h)
  unfold configCheck imagePixels
  by_cases h1 : s.widthR = 0 ∨ s.heightR = 0
  · rw [if_pos h1]
    simp only [reduceCtorEq, false_iff, not_and]
    rw [hz, hz] at h1
    omega
  · rw [if_neg h1]
    rw [hz, hz] at h1
    by_cases h2 : 3 < s.layoutR.toNat
    · rw [if_pos h2]
      simp only [reduceCtorEq, false_iff, not_and]
      omega
    · rw [if_neg h2]
      by_cases h3 : s.memPixels < s.widthR.toNat * s.heightR.toNat
      · rw [if_pos h3]
        simp only [reduceCtorEq, false_iff, not_and]
        omega
      · rw [if_neg h3]
        simp only [true_iff]
        omega

/-- ConfigCheck reads four fields only. -/
theorem configCheck_congr {s t : State} (hm : t.memPixels = s.memPixels) (hw : t.widthR = s.widthR)
    (hh : t.heightR = s.heightR) (hl : t.layoutR = s.layoutR) : configCheck t = configCheck s := by
  unfold configCheck imagePixels
  rw [hm, hw, hh, hl]

/-- All START does once the block is idle: begin an operation, or record the code (R176, R228). -/
theorem doStart_cases (s : State) :
    (configCheck s = .none ∧
        doStart s = { s with done := false, err := .none, phase := .clear, cidx := 0 }) ∨
      (configCheck s ≠ .none ∧ doStart s = { s with done := false, err := configCheck s }) := by
  unfold doStart
  cases h : configCheck s <;> simp

/-- All WR_CTRL does (R174): the BUSY refusal of a START, or CLEAR and then START. -/
theorem execWrCtrl_cases (start clear : Bool) (s : State) :
    (start = true ∧ busy s = true ∧
        execWrCtrl start clear s = raiseAccessError .busy true ctrlAddr s) ∨
      ((start = false ∨ busy s = false) ∧
        execWrCtrl start clear s =
          answerOkay 0 (bif start then doStart (bif clear then doClear s else s)
            else bif clear then doClear s else s)) := by
  unfold execWrCtrl
  cases start <;> cases clear <;> cases h : busy s <;> simp

end Sys2Proof.Machine
end

