-- ==== Sys2Proof/Laws/Engine.lean ====
section
/-! SUPPORT. For each operation of the ENGINE and the sampler, one lemma that says all it can do. -/

namespace Sys2Proof.Machine

open Sys2Proof Host

/-! ## The averages (R123 to R128) -/

/-- A four-term average is the floor of the exact sum over 4 (R123, R128). -/
theorem average4_toNat (a b c d : Byte) :
    (average4 a b c d).toNat = (a.toNat + b.toNat + c.toNat + d.toNat) / 4 := by
  have ha := a.isLt
  have hb := b.isLt
  have hc := c.isLt
  have hd := d.isLt
  unfold average4
  simp only [BitVec.toNat_setWidth, BitVec.toNat_ushiftRight, BitVec.toNat_add,
    Nat.shiftRight_eq_div_pow]
  omega

/-- A two-term average is the floor of the exact sum over 2 (R125, R128). -/
theorem average2_toNat (a b : Byte) : (average2 a b).toNat = (a.toNat + b.toNat) / 2 := by
  have ha := a.isLt
  have hb := b.isLt
  unfold average2
  simp only [BitVec.toNat_setWidth, BitVec.toNat_ushiftRight, BitVec.toNat_add,
    Nat.shiftRight_eq_div_pow]
  omega

/-! ## The window (R121, R130) -/

/-- The window is there exactly when its nine samples are. -/
theorem fetchWindow_eq_some_iff (s : State) (y x : Nat) (win : Window) :
    fetchWindow s y x = some win ↔
      sampleAt s (y - 1) (x - 1) = some win.nw ∧ sampleAt s (y - 1) x = some win.n ∧
        sampleAt s (y - 1) (x + 1) = some win.ne ∧ sampleAt s y (x - 1) = some win.w ∧
          sampleAt s y x = some win.c ∧ sampleAt s y (x + 1) = some win.e ∧
            sampleAt s (y + 1) (x - 1) = some win.sw ∧ sampleAt s (y + 1) x = some win.s ∧
              sampleAt s (y + 1) (x + 1) = some win.se := by
  obtain ⟨nw, n, ne, w, c, e, sw, so, se⟩ := win
  simp only [fetchWindow, Option.bind_eq_bind, Option.bind_eq_some_iff, Option.pure_def,
    Option.some.injEq, Window.mk.injEq]
  constructor
  · rintro ⟨_, h1, _, h2, _, h3, _, h4, _, h5, _, h6, _, h7, _, h8, _, h9, rfl, rfl, rfl, rfl, rfl,
      rfl, rfl, rfl, rfl⟩
    exact ⟨h1, h2, h3, h4, h5, h6, h7, h8, h9⟩
  · rintro ⟨h1, h2, h3, h4, h5, h6, h7, h8, h9⟩
    exact ⟨_, h1, _, h2, _, h3, _, h4, _, h5, _, h6, _, h7, _, h8, _, h9, rfl, rfl, rfl, rfl, rfl,
      rfl, rfl, rfl, rfl⟩

/-- A sample depends on MOSAIC, the parameter and WIDTH alone (R120). -/
theorem sampleAt_congr {s t : State} (hm : t.memPixels = s.memPixels) (hc : t.mosaic = s.mosaic)
    (hw : t.widthR = s.widthR) (y x : Nat) : sampleAt t y x = sampleAt s y x := by
  unfold sampleAt pixelIndex
  rw [hw, mosaicRead_congr hm hc]

theorem fetchWindow_congr {s t : State} (hm : t.memPixels = s.memPixels)
    (hc : t.mosaic = s.mosaic) (hw : t.widthR = s.widthR) (y x : Nat) :
    fetchWindow t y x = fetchWindow s y x := by
  unfold fetchWindow
  simp only [sampleAt_congr hm hc hw]

/-- The pixel of a window depends on MOSAIC, WIDTH and LAYOUT alone (R151, R153). -/
theorem pixelAt_congr {s t : State} (hm : t.memPixels = s.memPixels) (hc : t.mosaic = s.mosaic)
    (hw : t.widthR = s.widthR) (hl : t.layoutR = s.layoutR) (y x : Nat) :
    pixelAt t y x = pixelAt s y x := by
  unfold pixelAt
  rw [fetchWindow_congr hm hc hw, hl]

theorem isInterior_congr {s t : State} (hw : t.widthR = s.widthR) (hh : t.heightR = s.heightR)
    (y x : Nat) : isInterior t y x = isInterior s y x := by
  unfold isInterior
  rw [hw, hh]

theorem imageCell_congr {s t : State} (hm : t.memPixels = s.memPixels) (hc : t.mosaic = s.mosaic)
    (hw : t.widthR = s.widthR) (hh : t.heightR = s.heightR) (hl : t.layoutR = s.layoutR)
    (y x : Nat) : imageCell t y x = imageCell s y x := by
  unfold imageCell
  rw [isInterior_congr hw hh, pixelAt_congr hm hc hw hl]

theorem isInterior_iff (s : State) (y x : Nat) :
    isInterior s y x = true ↔
      1 ≤ y ∧ y + 2 ≤ s.heightR.toNat ∧ 1 ≤ x ∧ x + 2 ≤ s.widthR.toNat := by
  simp only [isInterior, Bool.and_eq_true, decide_eq_true_eq]
  tauto

/-! ## Row-major indexes (R9) -/

/-- Pixels of the image have cell indexes below W*H (R9, R122). -/
theorem pixelIndex_lt {s : State} {y x : Nat} (hy : y < s.heightR.toNat) (hx : x < s.widthR.toNat) :
    pixelIndex s y x < imagePixels s := by
  unfold pixelIndex imagePixels
  calc y * s.widthR.toNat + x < y * s.widthR.toNat + s.widthR.toNat := by omega
    _ = (y + 1) * s.widthR.toNat := by ring
    _ ≤ s.heightR.toNat * s.widthR.toNat := Nat.mul_le_mul_right _ hy
    _ = s.widthR.toNat * s.heightR.toNat := Nat.mul_comm _ _

/-- Different pixels have different cell indexes (R9). -/
theorem pixelIndex_injective {s : State} {y x y' x' : Nat} (hx : x < s.widthR.toNat)
    (hx' : x' < s.widthR.toNat) (h : pixelIndex s y x = pixelIndex s y' x') : y = y' ∧ x = x' := by
  unfold pixelIndex at h
  have hpos : 0 < s.widthR.toNat := by omega
  have hy : y = y' := by
    have h1 : (y * s.widthR.toNat + x) / s.widthR.toNat = y := by
      rw [Nat.mul_comm, Nat.mul_add_div hpos, Nat.div_eq_of_lt hx]
      rfl
    have h2 : (y' * s.widthR.toNat + x') / s.widthR.toNat = y' := by
      rw [Nat.mul_comm, Nat.mul_add_div hpos, Nat.div_eq_of_lt hx']
      rfl
    rw [← h1, ← h2, h]
  subst hy
  exact ⟨rfl, by omega⟩

/-- Every cell below W*H is a pixel of the image (R9). -/
theorem exists_pixel_of_lt {s : State} {i : Nat} (h : i < imagePixels s) :
    ∃ y x, y < s.heightR.toNat ∧ x < s.widthR.toNat ∧ pixelIndex s y x = i := by
  have hpos : 0 < s.widthR.toNat := by
    rcases Nat.eq_zero_or_pos s.widthR.toNat with h0 | h0
    · simp [imagePixels, h0] at h
    · exact h0
  refine ⟨i / s.widthR.toNat, i % s.widthR.toNat, ?_, Nat.mod_lt _ hpos, ?_⟩
  · exact Nat.div_lt_of_lt_mul h
  · unfold pixelIndex
    rw [Nat.mul_comm]
    exact Nat.div_add_mod i s.widthR.toNat

/-! ## The steps -/

/-- All HandOver does (R142). -/
theorem handOver_cases (s : State) :
    (3 ≤ s.widthR.toNat ∧ 3 ≤ s.heightR.toNat ∧
        handOver s = { s with phase := .scan, sy := 1, sx := 1 }) ∨
      ((s.widthR.toNat < 3 ∨ s.heightR.toNat < 3) ∧ handOver s = finish s) := by
  unfold handOver
  by_cases h : 3 ≤ s.widthR.toNat ∧ 3 ≤ s.heightR.toNat
  · left
    exact ⟨h.1, h.2, if_pos h⟩
  · right
    exact ⟨by omega, if_neg h⟩

/-- All Advance does (R148). -/
theorem advance_cases (s : State) :
    (s.sx.toNat < s.widthR.toNat - 2 ∧ advance s = { s with sx := s.sx + 1 }) ∨
      (s.widthR.toNat - 2 ≤ s.sx.toNat ∧ s.sy.toNat < s.heightR.toNat - 2 ∧
        advance s = { s with sx := 1, sy := s.sy + 1 }) ∨
      (s.widthR.toNat - 2 ≤ s.sx.toNat ∧ s.heightR.toNat - 2 ≤ s.sy.toNat ∧ advance s = finish s) := by
  unfold advance
  by_cases h1 : s.sx.toNat < s.widthR.toNat - 2
  · left
    exact ⟨h1, if_pos h1⟩
  · right
    rw [if_neg h1]
    by_cases h2 : s.sy.toNat < s.heightR.toNat - 2
    · left
      exact ⟨by omega, h2, if_pos h2⟩
    · right
      exact ⟨by omega, by omega, if_neg h2⟩

/-- All the end of a CLEAR_STEP does (R141). -/
theorem nextCell_cases (s : State) :
    (s.cidx + 1 ≠ imagePixels s ∧ nextCell s = { s with cidx := s.cidx + 1 }) ∨
      (s.cidx + 1 = imagePixels s ∧ nextCell s = handOver { s with cidx := s.cidx + 1 }) := by
  unfold nextCell
  by_cases h : s.cidx + 1 = imagePixels s
  · right
    exact ⟨h, if_pos h⟩
  · left
    exact ⟨h, if_neg h⟩

/-- All an RGB write of the ENGINE does. -/
theorem storePixel_cases (i : Nat) (p : Pixel) (next : State → State) (s : State) :
    (i < s.memPixels ∧ storePixel i p next s = .next (next (rgbWrite i p s))) ∨
      (s.memPixels ≤ i ∧ storePixel i p next s = .fault .engineOutOfBounds) := by
  unfold storePixel
  by_cases h : i < s.memPixels
  · left
    exact ⟨h, if_pos h⟩
  · right
    exact ⟨by omega, if_neg h⟩

/-- A CLEAR_STEP whose cell exists goes on (R141). -/
theorem clearStep_next {s : State} (h : s.cidx < s.memPixels) :
    clearStep s = .next (nextCell (rgbWrite s.cidx blackPixel s)) := if_pos h

/-- All a PIXEL_STEP does at an interior pixel (R143, R130). -/
theorem pixelStep_cases {s : State} (h : isInterior s s.sy.toNat s.sx.toNat = true) :
    (pixelAt s s.sy.toNat s.sx.toNat = none ∧ pixelStep s = .fault .unwrittenSample) ∨
      ∃ p, pixelAt s s.sy.toNat s.sx.toNat = some p ∧
        pixelStep s = storePixel (pixelIndex s s.sy.toNat s.sx.toNat) p advance s := by
  unfold pixelStep
  rw [if_pos h]
  cases hp : pixelAt s s.sy.toNat s.sx.toNat with
  | none => left; exact ⟨rfl, rfl⟩
  | some p => right; exact ⟨p, rfl, rfl⟩

/-! ## What no ENGINE step changes (R76, R150) -/

/-- The state from which an ENGINE operation comes and the state it gives agree on all the ENGINE leaves
alone. -/
structure EngineFrame (s t : State) : Prop where
  memPixels : t.memPixels = s.memPixels
  widthR : t.widthR = s.widthR
  heightR : t.heightR = s.heightR
  layoutR : t.layoutR = s.layoutR
  doneIe : t.doneIe = s.doneIe
  errIe : t.errIe = s.errIe
  accIe : t.accIe = s.accIe
  err : t.err = s.err
  accErr : t.accErr = s.accErr
  accCause : t.accCause = s.accCause
  errAddr : t.errAddr = s.errAddr
  errWe : t.errWe = s.errWe
  mosaic : t.mosaic = s.mosaic
  events : t.events = s.events
  responses : t.responses = s.responses

theorem handOver_frame (s : State) : EngineFrame s (handOver s) ∧ (handOver s).rgb = s.rgb := by
  rcases handOver_cases s with ⟨_, _, h⟩ | ⟨_, h⟩ <;> rw [h] <;>
    exact ⟨by constructor <;> rfl, rfl⟩

theorem nextCell_frame (s : State) : EngineFrame s (nextCell s) ∧ (nextCell s).rgb = s.rgb := by
  rcases nextCell_cases s with ⟨_, h⟩ | ⟨_, h⟩ <;> rw [h]
  · exact ⟨by constructor <;> rfl, rfl⟩
  · obtain ⟨hf, hr⟩ := handOver_frame { s with cidx := s.cidx + 1 }
    exact ⟨by constructor <;> simp [hf.memPixels, hf.widthR, hf.heightR, hf.layoutR, hf.doneIe,
      hf.errIe, hf.accIe, hf.err, hf.accErr, hf.accCause, hf.errAddr, hf.errWe, hf.mosaic,
      hf.events, hf.responses], by rw [hr]⟩

theorem advance_frame (s : State) : EngineFrame s (advance s) ∧ (advance s).rgb = s.rgb := by
  rcases advance_cases s with ⟨_, h⟩ | ⟨_, _, h⟩ | ⟨_, _, h⟩ <;> rw [h] <;>
    exact ⟨by constructor <;> rfl, rfl⟩

theorem EngineFrame.after_rgbWrite {s t : State} {i : Nat} {p : Pixel}
    (h : EngineFrame (rgbWrite i p s) t) : EngineFrame s t := by
  constructor
  · exact h.memPixels
  · exact h.widthR
  · exact h.heightR
  · exact h.layoutR
  · exact h.doneIe
  · exact h.errIe
  · exact h.accIe
  · exact h.err
  · exact h.accErr
  · exact h.accCause
  · exact h.errAddr
  · exact h.errWe
  · exact h.mosaic
  · exact h.events
  · exact h.responses

/-- All a turn of the ENGINE can do when it answers a next state (R140, R141, R143). -/
theorem engineTurn_next_cases {s t : State} (h : engineTurn s = .next t) :
    (s.phase = .idle ∧ t = s) ∨
      (s.phase = .clear ∧ s.cidx < s.memPixels ∧ t = nextCell (rgbWrite s.cidx blackPixel s)) ∨
      (s.phase = .scan ∧ isInterior s s.sy.toNat s.sx.toNat = true ∧
        pixelIndex s s.sy.toNat s.sx.toNat < s.memPixels ∧
        ∃ p, pixelAt s s.sy.toNat s.sx.toNat = some p ∧
          t = advance (rgbWrite (pixelIndex s s.sy.toNat s.sx.toNat) p s)) := by
  unfold engineTurn at h
  cases hp : s.phase with
  | idle =>
    rw [hp] at h
    left
    exact ⟨rfl, (Outcome.next.inj h).symm⟩
  | clear =>
    rw [hp] at h
    right; left
    rcases storePixel_cases s.cidx blackPixel nextCell s with ⟨hlt, he⟩ | ⟨_, he⟩
    · refine ⟨rfl, hlt, ?_⟩
      have h' : storePixel s.cidx blackPixel nextCell s = .next t := h
      rw [he] at h'
      exact (Outcome.next.inj h').symm
    · have h' : storePixel s.cidx blackPixel nextCell s = .next t := h
      rw [he] at h'
      exact absurd h' (by simp)
  | scan =>
    rw [hp] at h
    right; right
    have h' : pixelStep s = .next t := h
    by_cases hi : isInterior s s.sy.toNat s.sx.toNat = true
    · rcases pixelStep_cases hi with ⟨_, he⟩ | ⟨p, hpx, he⟩
      · rw [he] at h'
        exact absurd h' (by simp)
      · rw [he] at h'
        rcases storePixel_cases (pixelIndex s s.sy.toNat s.sx.toNat) p advance s with
          ⟨hlt, he'⟩ | ⟨_, he'⟩
        · rw [he'] at h'
          exact ⟨rfl, hi, hlt, p, hpx, (Outcome.next.inj h').symm⟩
        · rw [he'] at h'
          exact absurd h' (by simp)
    · unfold pixelStep at h'
      rw [if_neg hi] at h'
      exact absurd h' (by simp)

/-- A turn of the ENGINE changes nothing outside PHASE, CIDX, SY, SX, DONE and RGB (R150). -/
theorem engineTurn_frame {s t : State} (h : engineTurn s = .next t) : EngineFrame s t := by
  rcases engineTurn_next_cases h with ⟨_, rfl⟩ | ⟨_, _, rfl⟩ | ⟨_, _, _, p, _, rfl⟩
  · constructor <;> rfl
  · exact (nextCell_frame _).1.after_rgbWrite
  · exact (advance_frame _).1.after_rgbWrite

end Sys2Proof.Machine
end

