-- ==== Sys2Proof/Laws/PerInstr.lean ====
section
/-! SUPPORT. A statement about each transaction class as syntax: its encoding sets no ignored bit (R82, R86). -/

namespace Sys2Proof.Laws

open Sys2Proof

/-- The word of `i` has no bit set outside the bits its class reads. -/
def EncodeUsesOnlyUsedBits.Statement (i : Instr) : Prop := encode i &&& usedBits i = encode i

/-- A word with no data bits, at any offset, is inside the mask of `we` and `addr`. -/
theorem packTxn_zero_and (we : Bool) (addr : Addr) :
    packTxn we addr 0 &&& 0x1FFFFFF00000000#57 = packTxn we addr 0 := by
  rw [show (0x1FFFFFF00000000#57 : Txn) = packTxn true (BitVec.allOnes 24) 0 from by decide,
    packTxn_and, BitVec.and_allOnes, Bool.and_true, BitVec.and_self]

/-- A data word of zeros above its low bits `v` is inside any mask whose low bits are all ones. -/
theorem packTxn_data_and (we : Bool) (addr : Addr) (d m : Word) (h : d &&& m = d) :
    packTxn we addr d &&& packTxn true (BitVec.allOnes 24) m = packTxn we addr d := by
  rw [packTxn_and, h, BitVec.and_allOnes, Bool.and_true]

/-- The low 8 bits of a data word are inside the mask 0xFF. -/
theorem low8_and (v : BitVec 8) : (0#24 ++ v : Word) &&& 0xFF#32 = 0#24 ++ v := by
  rw [show (0xFF#32 : Word) = 0#24 ++ BitVec.allOnes 8 from by decide, BitVec.and_append,
    BitVec.and_allOnes, BitVec.and_zero]

/-- The low 16 bits of a data word are inside the mask 0xFFFF. -/
theorem low16_and (v : BitVec 16) : (0#16 ++ v : Word) &&& 0xFFFF#32 = 0#16 ++ v := by
  rw [show (0xFFFF#32 : Word) = 0#16 ++ BitVec.allOnes 16 from by decide, BitVec.and_append,
    BitVec.and_allOnes, BitVec.and_zero]

theorem EncodeUsesOnlyUsedBits.rdId :
    EncodeUsesOnlyUsedBits.Statement .rdId := packTxn_zero_and _ _

theorem EncodeUsesOnlyUsedBits.wrId :
    EncodeUsesOnlyUsedBits.Statement .wrId := packTxn_zero_and _ _

theorem EncodeUsesOnlyUsedBits.rdCtrl :
    EncodeUsesOnlyUsedBits.Statement .rdCtrl := packTxn_zero_and _ _

theorem EncodeUsesOnlyUsedBits.wrCtrl (start clear : Bool) :
    EncodeUsesOnlyUsedBits.Statement (.wrCtrl start clear) := by
  cases start <;> cases clear <;> rfl

theorem EncodeUsesOnlyUsedBits.rdStatus :
    EncodeUsesOnlyUsedBits.Statement .rdStatus := packTxn_zero_and _ _

theorem EncodeUsesOnlyUsedBits.wrStatus :
    EncodeUsesOnlyUsedBits.Statement .wrStatus := packTxn_zero_and _ _

theorem EncodeUsesOnlyUsedBits.rdWidth :
    EncodeUsesOnlyUsedBits.Statement .rdWidth := packTxn_zero_and _ _

theorem EncodeUsesOnlyUsedBits.wrWidth (width : Dim) :
    EncodeUsesOnlyUsedBits.Statement (.wrWidth width) :=
  packTxn_data_and _ _ _ _ (low16_and _)

theorem EncodeUsesOnlyUsedBits.rdHeight :
    EncodeUsesOnlyUsedBits.Statement .rdHeight := packTxn_zero_and _ _

theorem EncodeUsesOnlyUsedBits.wrHeight (height : Dim) :
    EncodeUsesOnlyUsedBits.Statement (.wrHeight height) :=
  packTxn_data_and _ _ _ _ (low16_and _)

theorem EncodeUsesOnlyUsedBits.rdLayout :
    EncodeUsesOnlyUsedBits.Statement .rdLayout := packTxn_zero_and _ _

theorem EncodeUsesOnlyUsedBits.wrLayout (layout : BitVec 8) :
    EncodeUsesOnlyUsedBits.Statement (.wrLayout layout) :=
  packTxn_data_and _ _ _ _ (low8_and _)

theorem EncodeUsesOnlyUsedBits.rdIrqen :
    EncodeUsesOnlyUsedBits.Statement .rdIrqen := packTxn_zero_and _ _

theorem EncodeUsesOnlyUsedBits.wrIrqen (doneIe errIe accIe : Bool) :
    EncodeUsesOnlyUsedBits.Statement (.wrIrqen doneIe errIe accIe) := by
  cases doneIe <;> cases errIe <;> cases accIe <;> rfl

theorem EncodeUsesOnlyUsedBits.rdCapacity :
    EncodeUsesOnlyUsedBits.Statement .rdCapacity := packTxn_zero_and _ _

theorem EncodeUsesOnlyUsedBits.wrCapacity :
    EncodeUsesOnlyUsedBits.Statement .wrCapacity := packTxn_zero_and _ _

theorem EncodeUsesOnlyUsedBits.rdErraddr :
    EncodeUsesOnlyUsedBits.Statement .rdErraddr := packTxn_zero_and _ _

theorem EncodeUsesOnlyUsedBits.wrErraddr :
    EncodeUsesOnlyUsedBits.Statement .wrErraddr := packTxn_zero_and _ _

theorem EncodeUsesOnlyUsedBits.rdMosaic (index : CellIndex) :
    EncodeUsesOnlyUsedBits.Statement (.rdMosaic index) := packTxn_zero_and _ _

theorem EncodeUsesOnlyUsedBits.wrMosaic (index : CellIndex) (sample : Byte) :
    EncodeUsesOnlyUsedBits.Statement (.wrMosaic index sample) :=
  packTxn_data_and _ _ _ _ (low8_and _)

theorem EncodeUsesOnlyUsedBits.rdRgb (index : CellIndex) :
    EncodeUsesOnlyUsedBits.Statement (.rdRgb index) := packTxn_zero_and _ _

theorem EncodeUsesOnlyUsedBits.wrRgb (index : CellIndex) :
    EncodeUsesOnlyUsedBits.Statement (.wrRgb index) := packTxn_zero_and _ _

theorem EncodeUsesOnlyUsedBits.errMisaligned1 (we : Bool) (slot : WordSlot) :
    EncodeUsesOnlyUsedBits.Statement (.errMisaligned1 we slot) := packTxn_zero_and _ _

theorem EncodeUsesOnlyUsedBits.errMisaligned2 (we : Bool) (slot : WordSlot) :
    EncodeUsesOnlyUsedBits.Statement (.errMisaligned2 we slot) := packTxn_zero_and _ _

theorem EncodeUsesOnlyUsedBits.errMisaligned3 (we : Bool) (slot : WordSlot) :
    EncodeUsesOnlyUsedBits.Statement (.errMisaligned3 we slot) := packTxn_zero_and _ _

theorem EncodeUsesOnlyUsedBits.errUnmapped (we : Bool) (addr : Addr) :
    EncodeUsesOnlyUsedBits.Statement (.errUnmapped we addr) := packTxn_zero_and _ _

end Sys2Proof.Laws
end

