-- ==== Sys2Proof/Laws/Run.lean ====
section
/-! SUPPORT. The step taken apart by its next event, and runs of steps. -/

namespace Sys2Proof.Machine

open Sys2Proof Host

/-! ## Runs -/

@[simp] theorem runSteps_zero (s : State) : runSteps 0 s = .next s := rfl

/-- A run goes on from the state its first step answers. -/
theorem runSteps_succ_next {s t : State} (h : step s = .next t) (n : Nat) :
    runSteps (n + 1) s = runSteps n t := by
  have hc : Sys2Proof.core.step s = .next t := h
  simp only [runSteps, Core.run]
  rw [hc]

/-- A run that stops at its first step stays stopped. -/
theorem runSteps_succ_fault {s : State} {f : Fault} (h : step s = .fault f) (n : Nat) :
    runSteps (n + 1) s = .fault f := by
  have hc : Sys2Proof.core.step s = .fault f := h
  simp only [runSteps, Core.run]
  rw [hc]
  rfl

/-! ## The next event -/

theorem nextEvent_cons {s : State} {e : Event} {rest : List Event} (h : s.events = e :: rest) :
    nextEvent s = e := by
  simp [nextEvent, h]

theorem nextEvent_nil {s : State} (h : s.events = []) : nextEvent s = .engine := by
  simp [nextEvent, h]

/-- All a step is, by its next event. -/
theorem step_cases (s : State) :
    (∃ w, nextEvent s = .transaction w ∧ step s = exec (decode w) (dropEvent s)) ∨
      (nextEvent s = .engine ∧ step s = engineTurn (dropEvent s)) ∨
      (nextEvent s = .reset ∧ step s = .next (resetBlock (dropEvent s))) := by
  unfold step
  cases h : nextEvent s with
  | transaction w => exact Or.inl ⟨w, rfl, rfl⟩
  | engine => exact Or.inr (Or.inl ⟨rfl, rfl⟩)
  | reset => exact Or.inr (Or.inr ⟨rfl, rfl⟩)

/-- A reset comes next only if it is among the events. -/
theorem nextEvent_ne_reset {s : State} (h : Event.reset ∉ s.events) : nextEvent s ≠ .reset := by
  cases he : s.events with
  | nil => rw [nextEvent_nil he]; decide
  | cons e rest =>
    rw [nextEvent_cons he]
    intro hr
    subst hr
    rw [he] at h
    simp at h

/-! ## Runs of an operation -/

/-- The state after `n` steps each of which started busy; none if the operation ends sooner or stops. -/
def runBusy : Nat → State → Option State
  | 0, s => some s
  | n + 1, s =>
    if busy s then
      match step s with
      | .next t => runBusy n t
      | .fault _ => none
      | .refused _ => none
    else none

/-- A busy run is a run, and every state before its last is busy. -/
theorem runBusy_spec {n : Nat} {s t : State} (h : runBusy n s = some t) :
    (∀ k < n, ∃ u, runSteps k s = .next u ∧ busy u = true) ∧ runSteps n s = .next t := by
  induction n generalizing s with
  | zero => exact ⟨fun k hk => absurd hk (Nat.not_lt_zero k), congrArg Outcome.next (Option.some.inj h)⟩
  | succ n ih =>
    unfold runBusy at h
    by_cases hb : busy s = true
    · rw [if_pos hb] at h
      cases hs : step s with
      | next u =>
        rw [hs] at h
        obtain ⟨hk, ht⟩ := ih h
        refine ⟨fun k hlt => ?_, by rw [runSteps_succ_next hs]; exact ht⟩
        cases k with
        | zero => exact ⟨s, rfl, hb⟩
        | succ k => rw [runSteps_succ_next hs]; exact hk k (Nat.lt_of_succ_lt_succ hlt)
      | fault f => rw [hs] at h; exact absurd h (by simp)
      | refused r => rw [hs] at h; exact absurd h (by simp)
    · rw [if_neg hb] at h
      exact absurd h (by simp)

/-- A busy run that ends idle is a finished operation. -/
theorem finishesAfter_of_runBusy {n : Nat} {s t : State} (he : Event.reset ∉ s.events)
    (h : runBusy n s = some t) (hb : busy t = false) : FinishesAfter n s t :=
  ⟨he, (runBusy_spec h).1, (runBusy_spec h).2, hb⟩

end Sys2Proof.Machine
end

