-- ==== Sys2Proof/Tests/Slice0.lean ====
section
/-! SUPPORT. Tests of the model against values printed in or computed from spec/ (95_test_vectors.md), and
for every statement with hypotheses a concrete case that meets them. -/

namespace Sys2Proof.Tests

open Sys2Proof Sys2Proof.Machine Host

/-! ## Helpers -/

/-- The state an outcome goes on to. -/
def nextOf : Outcome State Fault Refusal → Option State
  | .next t => some t
  | .fault _ => none
  | .refused _ => none

/-- The fault an outcome stops with. -/
def faultOf : Outcome State Fault Refusal → Option Fault
  | .next _ => none
  | .fault f => some f
  | .refused _ => none

/-- The outcome goes on to a state with property `p`. -/
abbrev Gives (o : Outcome State Fault Refusal) (p : State → Bool) : Prop := (nextOf o).any p = true

/-- `Gives` says that there is a next state and what holds of it. -/
theorem gives_iff (o : Outcome State Fault Refusal) (p : State → Bool) :
    Gives o p ↔ ∃ t, o = .next t ∧ p t = true := by
  cases o <;> simp [Gives, nextOf]

/-- `faultOf` names the fault of a stop. -/
theorem faultOf_iff (o : Outcome State Fault Refusal) (f : Fault) :
    faultOf o = some f ↔ o = .fault f := by
  cases o <;> simp [faultOf]

/-- The last response. -/
def answered (resp : Resp) (rdata : Word) (s : State) : Bool :=
  s.responses.getLast? == some ⟨resp, rdata⟩

/-- Reset, on a block with MEM_PIXELS = 25. -/
def blank : State := { State.reset with memPixels := 25 }

/-- An idle block configured for a `w` by `h` image. -/
def sized (w h : Dim) (l : BitVec 8) : State := { blank with widthR := w, heightR := h, layoutR := l }

/-- The same with these samples in MOSAIC cells 0, 1, … -/
def loaded (w h : Dim) (l : BitVec 8) (samples : List Byte) : State :=
  { sized w h l with mosaic := samples.zipIdx.map fun c => (c.2, c.1) }

/-- `n` black RGB cells. -/
def blacks (n : Nat) : Memory Pixel := (List.range n).map fun i => (i, blackPixel)

/-- `s` in the clear phase at cell `c`. -/
def clearing (s : State) (c : Nat) : State := { s with phase := .clear, cidx := c, rgb := blacks c }

/-- `s` in the scan at its first pixel (1,1). -/
def scanning (s : State) : State :=
  { s with phase := .scan, cidx := imagePixels s, sy := 1, sx := 1, rgb := blacks (imagePixels s) }

/-- `s` with these events to come. -/
def facing (s : State) (es : List Event) : State := { s with events := es }

/-- The event of a transaction. -/
def issue (i : Instr) : Event := .transaction (encode i)

/-- V3's fourth mosaic. -/
def samples3x3 : List Byte := [1, 10, 1] ++ [11, 77, 0] ++ [0, 11, 1]

/-- P3's mosaic, 4 by 3. -/
def samples4x3 : List Byte := [200, 17, 33, 250] ++ [7, 128, 255, 64] ++ [99, 3, 180, 45]

/-- The block with a recorded access error (READ_ONLY, a write of 0x000000). -/
def recorded (s : State) : State := { s with accErr := true, accCause := .readOnly, errWe := true }

/-! ## WellFormed refuses ill-formed terms -/

theorem test_illFormed_misaligned : wellFormed (.errUnmapped false 0x000026#24) = false := by decide

theorem test_illFormed_register : wellFormed (.errUnmapped true 0x000020#24) = false := by decide

theorem test_illFormed_mosaicWindow : wellFormed (.errUnmapped false 0x400000#24) = false := by decide

theorem test_illFormed_rgbWindow : wellFormed (.errUnmapped true 0xBFFFFC#24) = false := by decide

/-! ## Decoding, from words written out by R80 and R84 -/

theorem test_decode_id :
    decode 0x000000000000000#57 = .rdId ∧ decode 0x0000000FFFFFFFF#57 = .rdId ∧
      decode 0x100000000000000#57 = .wrId := by decide

theorem test_decode_ctrl :
    decode 0x000000400000000#57 = .rdCtrl ∧ decode 0x100000400000001#57 = .wrCtrl true false ∧
      decode 0x100000400000002#57 = .wrCtrl false true := by decide

theorem test_decode_status :
    decode 0x000000800000000#57 = .rdStatus ∧ decode 0x100000800000000#57 = .wrStatus := by decide

theorem test_decode_width :
    decode 0x000000C00000000#57 = .rdWidth ∧ decode 0x100000C00012345#57 = .wrWidth 0x2345#16 := by
  decide

theorem test_decode_height :
    decode 0x000001000000000#57 = .rdHeight ∧ decode 0x100001000000005#57 = .wrHeight 5#16 := by decide

theorem test_decode_layout :
    decode 0x000001400000000#57 = .rdLayout ∧ decode 0x1000014000001FF#57 = .wrLayout 0xFF#8 := by
  decide

theorem test_decode_irqen :
    decode 0x000001800000000#57 = .rdIrqen ∧
      decode 0x1000018FFFFFFFF#57 = .wrIrqen true true true ∧
      decode 0x100001800000002#57 = .wrIrqen false true false := by decide

theorem test_decode_capacity :
    decode 0x000001C00000000#57 = .rdCapacity ∧ decode 0x100001C00000001#57 = .wrCapacity := by decide

theorem test_decode_erraddr :
    decode 0x000002000000000#57 = .rdErraddr ∧ decode 0x100002000000000#57 = .wrErraddr := by decide

theorem test_decode_mosaic :
    decode 0x040006400000000#57 = .rdMosaic 25#20 ∧ decode 0x07FFFFC00000000#57 = .rdMosaic 0xFFFFF#20 ∧
      decode 0x140000C00ABCD12#57 = .wrMosaic 3#20 0x12#8 := by decide

theorem test_decode_rgb :
    decode 0x080006000000000#57 = .rdRgb 24#20 ∧ decode 0x1804E2000000000#57 = .wrRgb 5000#20 := by
  decide

theorem test_decode_misaligned :
    decode 0x000000100000000#57 = .errMisaligned1 false 0#22 ∧
      decode 0x000000200000000#57 = .errMisaligned2 false 0#22 ∧
      decode 0x1C0000300000005#57 = .errMisaligned3 true 0x300000#22 := by decide

theorem test_decode_unmapped :
    decode 0x000002400000000#57 = .errUnmapped false 0x000024#24 ∧
      decode 0x03FFFFC00000000#57 = .errUnmapped false 0x3FFFFC#24 ∧
      decode 0x1C0000000000001#57 = .errUnmapped true 0xC00000#24 := by decide

theorem test_decodeNumber_rejects : decodeNumber (2 ^ 57) = .error .widerThanATransaction := by decide

theorem test_pseudo_P6 :
    expandPseudo (.load 0 [1, 2, 3]) = [0x140000000000001#57, 0x140000400000002#57, 0x140000800000003#57] ∧
      expandPseudo .clearStart = [0x100000400000003#57] ∧
      expandPseudo (.config 3 3 3) = [0x100000C00000003#57, 0x100001000000003#57, 0x100001400000003#57] ∧
      assembleRd (.raw 0x000024) = 0x000002400000000#57 ∧ expandPseudo (.readout 3 2) = [0x080000C00000000#57, 0x080001000000000#57] := by
  decide

/-! ## Register transactions (V5, V7) -/

theorem test_rdId : Gives (exec .rdId blank) (answered .okay 0x42444D01) := by decide

theorem test_rdCtrl : Gives (exec .rdCtrl (sized 3 3 0)) (answered .okay 0) := by decide

theorem test_rdStatus_afterP2 :
    Gives (exec .rdStatus { sized 5 5 0 with done := true, accErr := true, accCause := .busy })
      (answered .okay 0x00000506) := by decide

theorem test_rdWidth : Gives (exec .rdWidth (sized 0xFFFF 5 0)) (answered .okay 0x0000FFFF) := by decide

theorem test_wrWidth :
    Gives (exec (decode 0x100000C00012345#57) blank) fun t => t.widthR == 0x2345 && t.heightR == 0 := by
  decide

theorem test_wrWidth_busy :
    Gives (exec (.wrWidth 9) (clearing (sized 3 3 0) 0)) fun t =>
      answered .error 0 t && t.widthR == 3 && erraddrWord t == 0x0100000C := by decide

theorem test_rdHeight : Gives (exec .rdHeight (sized 4 3 0)) (answered .okay 3) := by decide

theorem test_wrHeight : Gives (exec (.wrHeight 7) (sized 4 3 0)) fun t => t.heightR == 7 && t.widthR == 4 := by
  decide

theorem test_rdLayout : Gives (exec .rdLayout (sized 3 3 0xFF)) (answered .okay 0xFF) := by decide

theorem test_wrLayout : Gives (exec (.wrLayout 0xFF) blank) fun t => t.layoutR == 0xFF := by decide

theorem test_rdIrqen :
    Gives (exec .rdIrqen { blank with accIe := true, doneIe := true }) (answered .okay 5) := by decide

theorem test_wrIrqen_busy :
    Gives (exec (.wrIrqen true false false) (clearing (sized 3 3 0) 0)) fun t =>
      answered .okay 0 t && irqenWord t == 1 := by decide

theorem test_rdCapacity :
    Gives (exec .rdCapacity { blank with memPixels := 4096 }) (answered .okay 0x00001000) ∧
      Gives (exec .rdCapacity { blank with memPixels := 2 ^ 20 }) (answered .okay 0x00100000) := by decide

theorem test_rdErraddr :
    Gives (exec .rdErraddr { recorded blank with errAddr := 0x22 }) (answered .okay 0x01000022) := by decide

theorem test_wrCtrl_clear :
    Gives (exec (.wrCtrl false true) { recorded blank with done := true }) fun t =>
      statusWord t == 0 && erraddrWord t == 0 := by decide

theorem test_wrCtrl_start :
    Gives (exec (.wrCtrl true false) (recorded (sized 3 3 0))) fun t => statusWord t == 0x00000305 := by
  decide

theorem test_start_zeroDimFirst :
    Gives (exec (.wrCtrl true false) (sized 0 5 9)) fun t => statusWord t == 0x00000010 := by decide

theorem test_start_badLayoutFirst :
    Gives (exec (.wrCtrl true false) (sized 6 5 7)) fun t => statusWord t == 0x00000020 := by decide

theorem test_start_capacity :
    Gives (exec (.wrCtrl true false) (sized 6 5 0)) (fun t => statusWord t == 0x00000030) ∧
      Gives (exec (.wrCtrl true false) (sized 5 5 3)) (fun t => statusWord t == 0x00000001) := by decide

/-! ## Access errors (V6) -/

theorem test_wrId : Gives (exec .wrId blank) fun t => erraddrWord t == 0x01000000 := by decide

theorem test_wrStatus : Gives (exec .wrStatus blank) fun t => erraddrWord t == 0x01000008 := by decide

theorem test_wrCapacity : Gives (exec .wrCapacity blank) fun t => erraddrWord t == 0x0100001C := by decide

theorem test_wrErraddr : Gives (exec .wrErraddr blank) fun t => erraddrWord t == 0x01000020 := by decide

theorem test_wrRgb :
    Gives (exec (.wrRgb 5000) (clearing (sized 3 3 0) 0)) fun t =>
      t.accCause == .readOnly && erraddrWord t == 0x01804E20 := by decide

theorem test_rdMosaic_range :
    Gives (exec (.rdMosaic 25) blank) fun t =>
      statusWord t == 0x00000404 && erraddrWord t == 0x00400064 := by decide

theorem test_rdRgb_rangeBeforeBusy :
    Gives (exec (.rdRgb 25) (clearing (sized 3 3 0) 0)) fun t => t.accCause == .range := by decide

theorem test_errMisaligned :
    Gives (exec (decode 0x000000100000000#57) blank) (fun t => statusWord t == 0x104 && erraddrWord t == 1) ∧
      Gives (exec (decode 0x000000200000000#57) blank) (fun t => erraddrWord t == 2) ∧
      Gives (exec (decode 0x1C0000300000005#57) blank) (fun t =>
        t.accCause == .misaligned && erraddrWord t == 0x01C00003) := by decide

theorem test_errUnmapped :
    Gives (exec (decode 0x1C0000000000001#57) blank) fun t =>
      statusWord t == 0x00000204 && erraddrWord t == 0x01C00000 := by decide

theorem test_firstErrorStays :
    Gives (exec (.errUnmapped false 0x24) (recorded blank)) fun t =>
      answered .error 0 t && t.accCause == .readOnly && erraddrWord t == 0x01000000 := by decide

/-! ## Windows (V9) and interrupt (V8) -/

theorem test_wrMosaic :
    Gives (exec (decode 0x140000C00ABCD12#57) blank) fun t => mosaicRead t 3 == some 0x12 := by decide

theorem test_rdMosaic :
    Gives (exec (.rdMosaic 3) { blank with mosaic := [(3, 0x12)] }) (answered .okay 0x00000012) := by decide

theorem test_rdRgb :
    Gives (exec (.rdRgb 6) { blank with rgb := [(6, ⟨0x4E, 0x65, 0xFF⟩)] }) (answered .okay 0x00FF654E) := by
  decide

theorem test_rd_unwritten :
    faultOf (exec (.rdMosaic 0) blank) = some .unwrittenMosaicRead ∧
      faultOf (exec (.rdRgb 24) blank) = some .unwrittenRgbRead := by decide

theorem test_irq :
    irq { blank with doneIe := true, err := .badLayout } = false ∧
      irq { blank with errIe := true, err := .badLayout } = true ∧
      irq { blank with errIe := true, accIe := true, done := true } = false := by decide

/-! ## The sampler, the tables and the ENGINE (E1, E3, V1, V2, V3, P3, P8) -/

theorem test_average_truncates : average2 10 11 = 10 ∧ average4 255 255 255 254 = 254 := by decide

theorem test_roleTable : roleTable 1 false true = .gb ∧ roleTable 2 true true = .gb ∧ roleTable 3 true true = .gr := by
  decide

theorem test_pixel_V3 :
    pixelAt (loaded 3 3 0 samples3x3) 1 1 = some ⟨0, 8, 77⟩ ∧
      pixelAt (loaded 3 3 1 samples3x3) 1 1 = some ⟨77, 8, 0⟩ ∧
      pixelAt (loaded 3 3 2 samples3x3) 1 1 = some ⟨10, 77, 5⟩ ∧
      pixelAt (loaded 3 3 3 samples3x3) 1 1 = some ⟨5, 77, 10⟩ := by decide

theorem test_pixel_P3 :
    pixelAt (loaded 4 3 2 samples4x3) 1 1 = some ⟨10, 128, 131⟩ ∧
      pixelAt (loaded 4 3 2 samples4x3) 1 2 = some ⟨78, 101, 255⟩ := by decide

theorem test_clearStep_handsOver :
    Gives (engineTurn (clearing (sized 3 3 0) 8)) (fun t => t.phase == .scan && t.sy == 1 && t.sx == 1) ∧
      Gives (engineTurn (clearing (sized 2 5 1) 9)) (fun t => statusWord t == 2) := by decide

theorem test_pixelStep_advances :
    Gives (engineTurn (scanning (loaded 4 3 2 samples4x3))) fun t =>
      rgbRead t 5 == some ⟨10, 128, 131⟩ && t.sx == 2 && t.phase == .scan := by decide

theorem test_pixelStep_unwritten :
    faultOf (engineTurn (scanning (loaded 3 3 0 [0, 1, 2, 3, 4, 5, 6, 7]))) = some .unwrittenSample := by
  decide

/-! ## The host's two definitions -/

theorem test_decodeTableWord :
    decodeTableWord 56 0x00002000000000 = some .rdErraddr ∧
      decodeTableWord 64 0x140001800000028 = some (.wrMosaic 6#20 40#8) := by decide

theorem test_withFetchWord :
    Gives (step (State.reset.withFetchWord 64 0x100000C00000003)) fun t =>
      t.widthR == 3 && answered .okay 0 t && t.events == [] := by decide

/-- The invariant, evaluated. -/
def invHolds (s : State) : Bool := decide (BlockInv s)

theorem invHolds_iff (s : State) : invHolds s = true ↔ BlockInv s := decide_eq_true_iff

/-! ## Cases that meet the hypotheses of the statements -/

theorem witness_DecodeOfEncodeIsIdentity :
    WellFormed (.errUnmapped false 0x000024#24) ∧ WellFormed (.errUnmapped true 0x3FFFFC#24) ∧
      WellFormed (.errUnmapped false 0xC00000#24) ∧ WellFormed (.errUnmapped true 0xFFFFFC#24) ∧
      WellFormed .rdId := by decide

theorem witness_OpcodeTableClassifiesEveryWord :
    (∃ row ∈ classRows, rowMatches row 0x000002000000000#57 = true) ∧
      (∀ row ∈ classRows, rowMatches row 0x000002400000000#57 = false) := by decide

theorem witness_MisalignedWordsAreRefused :
    (txnAddr 0x000000100000000#57).extractLsb' 0 2 ≠ 0#2 ∧
      (txnAddr 0x1FFFFFF00000000#57).extractLsb' 0 2 ≠ 0#2 := by decide

theorem witness_UnmappedWordsAreRefused :
    ∀ t ∈ [0x000002400000000#57, 0x03FFFFC00000000#57, 0x1C0000000000000#57, 0x1FFFFFC00000000#57],
      (txnAddr t).extractLsb' 0 2 = 0#2 ∧
        ((0x24 ≤ (txnAddr t).toNat ∧ (txnAddr t).toNat ≤ 0x3FFFFF) ∨ 0xC00000 ≤ (txnAddr t).toNat) := by
  simp [txnAddr]

theorem witness_StepRunsTheDecodedTransaction :
    (facing blank [issue .rdId]).events = .transaction (encode .rdId) :: [] ∧
      (2 ^ 57 - 1 < 2 ^ 57 ∧ 2 ^ 57 - 1 < 2 ^ 57) ∧ (1 < 2 ^ 1 ∧ 1 < 2 ^ 57) := by decide

theorem witness_EngineTurnsWhenScheduled :
    (facing blank [.engine]).events = .engine :: [] ∧ (clearing (sized 1 1 0) 0).events = [] ∧
      blank.events = [] ∧ blank.phase = .idle := by decide

theorem witness_ResetEventRestoresTheResetState :
    (facing (clearing (sized 3 3 2) 4) [.reset]).events = .reset :: [] := by decide

theorem witness_EveryStepKeepsTheInvariant :
    ∀ s ∈ [facing (sized 1 1 0) [issue (.wrCtrl true false)], facing (recorded blank) [issue .wrId],
        clearing (sized 3 3 3) 8, clearing (sized 5 1 0) 4, scanning (loaded 4 3 2 samples4x3),
        scanning (loaded 3 4 2 samples4x3), scanning (loaded 3 3 1 samples3x3),
        facing (clearing (sized 3 3 0) 2) [.reset], facing (scanning (loaded 3 3 0 samples3x3)) [issue (.rdRgb 4)]],
      invHolds s = true ∧ Gives (step s) fun _ => true := by decide

theorem witness_EveryTileHasEachRoleOnce :
    ∀ layout : Fin 4, ∃ py px : Bool, roleTable (BitVec.ofFin layout) py px = .r := by decide

theorem witness_RoleFixesTheNeighbourColours :
    roleAt 0 1 1 = .b ∧ roleAt 1 1 1 = .r ∧ roleAt 2 1 1 = .gb ∧ roleAt 3 1 1 = .gr := by decide

theorem witness_NativeChannelIsTheRawSample :
    (pixelAt (loaded 3 3 0 samples3x3) 1 1).isSome = true := by decide

/-- V3's image beside a MOSAIC cell outside it, on a larger block with another height. -/
def beyond3x3 : State :=
  { loaded 3 12 0 (samples3x3 ++ [200]) with memPixels := 36, accErr := true }

theorem witness_WindowStaysInsideTheImage :
    (1 ≤ 1 ∧ 1 + 2 ≤ (loaded 3 3 0 samples3x3).heightR.toNat ∧ 1 ≤ 1 ∧
        1 + 2 ≤ (loaded 3 3 0 samples3x3).widthR.toNat) ∧
      (beyond3x3.widthR = (loaded 3 3 0 samples3x3).widthR ∧
        beyond3x3.layoutR = (loaded 3 3 0 samples3x3).layoutR ∧
        ∀ i < 3 * 3, mosaicRead beyond3x3 i = mosaicRead (loaded 3 3 0 samples3x3) i) ∧
      IsWindow (loaded 3 3 0 samples3x3) 1 1 ⟨1, 10, 1, 11, 77, 0, 0, 11, 1⟩ ∧ 2 < 3 := by decide

theorem witness_ClearStepBlacksOneCell :
    (invHolds (clearing (sized 3 3 0) 7) = true ∧ (clearing (sized 3 3 0) 7).phase = .clear ∧ 7 + 1 ≠ 3 * 3) ∧
      (invHolds (clearing (sized 3 3 0) 8) = true ∧ (clearing (sized 3 3 0) 8).cidx + 1 = 3 * 3) ∧
      (invHolds (clearing (sized 2 12 0) 23) = true ∧ (clearing (sized 2 12 0) 23).cidx + 1 = 2 * 12) ∧
      (invHolds (clearing (sized 12 2 0) 23) = true ∧ (clearing (sized 12 2 0) 23).cidx + 1 = 12 * 2) := by decide

/-- V3's fourth window. -/
def window3x3 : Window := ⟨1, 10, 1, 11, 77, 0, 0, 11, 1⟩

theorem witness_PixelStepWritesItsPixelAndAdvances :
    (invHolds (scanning (loaded 4 3 2 samples4x3)) = true ∧ (scanning (loaded 4 3 2 samples4x3)).phase = .scan ∧
        IsWindow (scanning (loaded 4 3 2 samples4x3)) 1 1 ⟨200, 17, 33, 7, 128, 255, 99, 3, 180⟩ ∧ 1 + 2 < 4) ∧
      (invHolds (scanning (loaded 3 4 2 samples4x3)) = true ∧
        IsWindow (scanning (loaded 3 4 2 samples4x3)) 1 1 ⟨200, 17, 33, 250, 7, 128, 255, 64, 99⟩ ∧
        1 + 2 = 3 ∧ 1 + 2 < 4) ∧
      (invHolds (scanning (loaded 3 3 0 samples3x3)) = true ∧
        IsWindow (scanning (loaded 3 3 0 samples3x3)) 1 1 window3x3 ∧ 1 + 2 = 3) := by decide

theorem witness_PixelStepComputesTheFormulaOfItsRole :
    ∀ c ∈ [(0#8, Role.b), (1#8, Role.r), (2#8, Role.gb), (3#8, Role.gr)],
      invHolds (scanning (loaded 3 3 c.1 samples3x3)) = true ∧
        IsWindow (scanning (loaded 3 3 c.1 samples3x3)) 1 1 window3x3 ∧
        roleTable (c.1.extractLsb' 0 2) ((scanning (loaded 3 3 c.1 samples3x3)).sy.getLsbD 0)
          ((scanning (loaded 3 3 c.1 samples3x3)).sx.getLsbD 0) = c.2 := by decide

/-- A scan with MOSAIC cell 8 unwritten (P8). -/
def missing : State := scanning (loaded 3 3 0 [0, 1, 2, 3, 4, 5, 6, 7])

theorem witness_PixelStepFaultsExactlyOnUnwrittenSample :
    (invHolds missing = true ∧ missing.phase = .scan ∧ WindowHasUnwritten missing 1 1) ∧
      (invHolds (scanning (loaded 3 3 0 samples3x3)) = true ∧
        ¬WindowHasUnwritten (scanning (loaded 3 3 0 samples3x3)) 1 1) := by decide

theorem witness_EngineRaisesNoHardwareError :
    (invHolds missing = true ∧ busy missing = true) ∧
      (invHolds (scanning (loaded 3 3 0 samples3x3)) = true ∧ busy (scanning (loaded 3 3 0 samples3x3)) = true ∧
        MosaicLoaded (scanning (loaded 3 3 0 samples3x3))) := by decide

theorem witness_EngineTouchesOnlyItsOwnState :
    ∀ s ∈ [clearing (sized 1 1 0) 0, scanning (loaded 3 3 0 samples3x3)],
      invHolds s = true ∧ busy s = true ∧ Gives (engineTurn s) fun _ => true := by decide

theorem witness_EachEngineTurnUsesOneStepOfTheBound :
    (invHolds (clearing (sized 5 5 0) 24) = true ∧ busy (clearing (sized 5 5 0) 24) = true ∧
        Gives (engineTurn (clearing (sized 5 5 0) 24)) fun _ => true) ∧
      ((sized 5 5 3).phase = .idle ∧ ConfigValid (sized 5 5 3) ∧
        Gives (exec (.wrCtrl true false) (sized 5 5 3)) fun t => stepsLeft t == 34) ∧
      (invHolds blank = true ∧ stepsLeft blank = 0) := by decide

/-- The state after an accepted START. -/
def started (s : State) : State := { respond .okay 0 s with done := false, err := .none, phase := .clear, cidx := 0 }

theorem started_eq {s : State} (hp : s.phase = .idle) (hc : ConfigValid s) :
    exec (.wrCtrl true false) s = .next (started s) := by
  have hb : busy s = false := (busy_eq_false_iff s).2 hp
  rcases execWrCtrl_cases true false s with ⟨_, h, _⟩ | ⟨_, he⟩
  · rw [hb] at h; exact absurd h (by decide)
  · rcases doStart_cases s with ⟨_, hd⟩ | ⟨hn, _⟩
    · show execWrCtrl true false s = _
      rw [he]
      show answerOkay 0 (doStart s) = _
      rw [hd]
      rfl
    · exact absurd ((configCheck_eq_none_iff s).2 hc) hn

/-- An accepted START and a run from it to the end, with the premises of the statements about results. -/
theorem operation_exists {s : State} (n : Nat) (hi : invHolds s = true) (hp : s.phase = .idle) (hc : ConfigValid s)
    (he : Event.reset ∉ s.events)
    (hr : (runBusy n (started s)).any (fun t => !busy t) = true) :
    invHolds s = true ∧ s.phase = .idle ∧ ConfigValid s ∧
      ∃ s₁ t, exec (.wrCtrl true false) s = .next s₁ ∧ FinishesAfter n s₁ t := by
  cases h : runBusy n (started s) with
  | none => rw [h] at hr; exact absurd hr (by decide)
  | some t =>
    rw [h] at hr
    refine ⟨hi, hp, hc, started s, t, started_eq hp hc, finishesAfter_of_runBusy he h ?_⟩
    simpa using hr

theorem witness_FinishedOperationHoldsTheImage :
    (invHolds (sized 1 1 0) = true ∧ (sized 1 1 0).phase = .idle ∧ ConfigValid (sized 1 1 0) ∧
      ∃ s₁ t, exec (.wrCtrl true false) (sized 1 1 0) = .next s₁ ∧ FinishesAfter 1 s₁ t) ∧
    (invHolds (facing (loaded 3 3 1 samples3x3) [.engine, issue (.wrMosaic 4 9), .engine]) = true ∧
      (facing (loaded 3 3 1 samples3x3) [.engine, issue (.wrMosaic 4 9), .engine]).phase = .idle ∧
      ConfigValid (facing (loaded 3 3 1 samples3x3) [.engine, issue (.wrMosaic 4 9), .engine]) ∧
      ∃ s₁ t, exec (.wrCtrl true false)
          (facing (loaded 3 3 1 samples3x3) [.engine, issue (.wrMosaic 4 9), .engine]) = .next s₁ ∧
        FinishesAfter 11 s₁ t) :=
  ⟨operation_exists 1 (by decide) (by decide) (by decide) (by decide) (by decide),
    operation_exists 11 (by decide) (by decide) (by decide) (by decide) (by decide)⟩

theorem witness_LoadedOperationFinishes :
    ∀ s ∈ [loaded 1 1 0 [7], loaded 4 3 2 samples4x3,
        facing (loaded 3 3 3 samples3x3) [issue .rdStatus, issue (.wrCtrl false true), .engine]],
      invHolds s = true ∧ CleanIdle s ∧ ConfigValid s ∧ MosaicLoaded s ∧ Event.reset ∉ s.events := by decide

theorem witness_FinishedScanHadEverySample :
    3 ≤ (loaded 3 3 0 samples3x3).widthR.toNat ∧ 3 ≤ (loaded 3 3 0 samples3x3).heightR.toNat ∧
      invHolds (loaded 3 3 0 samples3x3) = true ∧ (loaded 3 3 0 samples3x3).phase = .idle ∧
      ConfigValid (loaded 3 3 0 samples3x3) ∧
      ∃ s₁ t, exec (.wrCtrl true false) (loaded 3 3 0 samples3x3) = .next s₁ ∧ FinishesAfter 10 s₁ t :=
  ⟨by decide, by decide, operation_exists 10 (by decide) (by decide) (by decide) (by decide) (by decide)⟩

/-- The same mosaic beside an old image, a recorded error and DONE. -/
def other3x3 : State :=
  { recorded (loaded 3 3 0 samples3x3) with
    memPixels := 9, done := true, rgb := [(4, ⟨1, 2, 3⟩)], events := [issue .rdId] }

theorem witness_EqualInputsGiveEqualImages :
    (invHolds (loaded 3 3 0 samples3x3) = true ∧ (loaded 3 3 0 samples3x3).phase = .idle ∧
      ConfigValid (loaded 3 3 0 samples3x3) ∧
      ∃ s₁ t, exec (.wrCtrl true false) (loaded 3 3 0 samples3x3) = .next s₁ ∧ FinishesAfter 10 s₁ t) ∧
    (invHolds other3x3 = true ∧ other3x3.phase = .idle ∧ ConfigValid other3x3 ∧
      ∃ s₁ t, exec (.wrCtrl true false) other3x3 = .next s₁ ∧ FinishesAfter 11 s₁ t) ∧
    (other3x3.widthR = 3 ∧ other3x3.heightR = 3 ∧ other3x3.layoutR = 0 ∧
      ∀ i < 9, mosaicRead other3x3 i = mosaicRead (loaded 3 3 0 samples3x3) i) :=
  ⟨operation_exists 10 (by decide) (by decide) (by decide) (by decide) (by decide),
    operation_exists 11 (by decide) (by decide) (by decide) (by decide) (by decide), by decide⟩

theorem witness_PhaseMovesOnlyAsListed :
    Gives (step (facing (sized 1 1 0) [issue (.wrCtrl true true)])) (fun t => t.phase == .clear) ∧
      Gives (step (facing (clearing (sized 3 3 0) 1) [.reset])) (fun t => t.phase == .idle) ∧
      Gives (step (clearing (sized 3 3 0) 8)) (fun t => t.phase == .scan) ∧
      Gives (step (clearing (sized 1 1 0) 0)) (fun t => t.phase == .idle) ∧
      Gives (step (scanning (loaded 3 3 0 samples3x3))) (fun t => t.phase == .idle) := by decide

theorem witness_CapacityReadAnswersMemPixels :
    ∀ n ∈ [9, 2 ^ 20], 9 ≤ { blank with memPixels := n }.memPixels ∧
      { blank with memPixels := n }.memPixels ≤ 2 ^ 20 ∧
      ∀ es ∈ [[issue (.wrWidth 3)], [.engine], [.reset]],
        Gives (step (facing { blank with memPixels := n } es)) fun _ => true := by decide

theorem witness_StatusReadAnswersTheFlags :
    invHolds { blank with done := true } = true ∧ invHolds (clearing (sized 1 1 0) 0) = true ∧
      invHolds { blank with err := .capacity } = true ∧
      (∀ e ∈ [(ErrCode.none, 0#2), (.zeroDim, 1#2), (.badLayout, 2#2), (.capacity, 3#2)],
        Gives (exec .rdStatus { blank with err := e.1 }) (answered .okay (0#26 ++ e.2 ++ 0#4))) ∧
      (∀ a ∈ [(AccCause.misaligned, 1#3), (.unmapped, 2#3), (.readOnly, 3#3), (.range, 4#3), (.busy, 5#3)],
        Gives (exec .rdStatus { blank with accErr := true, accCause := a.1 })
          (answered .okay (0#21 ++ a.2 ++ 0#5 ++ 4#3))) := by decide

theorem witness_ErraddrReadAnswersTheRecord : invHolds blank = true ∧ blank.accErr = false := by decide

theorem witness_ConfigurationWritesStoreWhenIdle :
    blank.phase = .idle ∧ (clearing (sized 3 3 0) 0).phase ≠ .idle ∧
      (scanning (loaded 3 3 0 samples3x3)).phase ≠ .idle := by decide

theorem witness_CtrlWriteWithoutStart :
    BlockInv (clearing (recorded (sized 3 3 0)) 0) ∧ busy (clearing (recorded (sized 3 3 0)) 0) = true := by
  decide

theorem witness_StartWhileBusyIsRefused :
    (clearing (sized 3 3 0) 0).phase ≠ .idle ∧ missing.phase ≠ .idle := by decide

theorem witness_RejectedStartLeavesOnlyTheCode :
    ((sized 0 1 0).phase = .idle ∧ (sized 0 1 0).widthR.toNat = 0) ∧
      (sized 1 0 9).heightR.toNat = 0 ∧
      (1 ≤ (sized 1 1 4).widthR.toNat ∧ 1 ≤ (sized 1 1 4).heightR.toNat ∧ 3 < (sized 1 1 4).layoutR.toNat) ∧
      (1 ≤ (sized 26 1 3).widthR.toNat ∧ 1 ≤ (sized 26 1 3).heightR.toNat ∧ (sized 26 1 3).layoutR.toNat ≤ 3 ∧
        (sized 26 1 3).memPixels < (sized 26 1 3).widthR.toNat * (sized 26 1 3).heightR.toNat) ∧
      Gives (exec (.wrCtrl true true) { sized 0 1 0 with errIe := true }) (fun t =>
        t.err != .none && t.errIe) := by decide

theorem witness_AcceptedStartBeginsTheClearPhase :
    ∀ s ∈ [sized 1 1 0, sized 25 1 3, sized 5 5 3, recorded (sized 3 3 0)],
      s.phase = .idle ∧ ConfigValid s := by decide

theorem witness_StartIsNeverLost :
    ∀ s ∈ [sized 1 1 0, sized 3 3 0, sized 0 0 0],
      invHolds s = true ∧ s.phase = .idle ∧ Gives (exec (.wrCtrl true false) s) fun s₁ =>
        (nextOf (runSteps 2 { s₁ with events := [] })).isSome := by decide

theorem witness_MosaicWriteStoresOneCell :
    ((24#20).toNat < blank.memPixels ∧ blank.phase = .idle) ∧ blank.memPixels ≤ (25#20).toNat ∧
      ((24#20).toNat < (clearing (sized 3 3 0) 0).memPixels ∧ (clearing (sized 3 3 0) 0).phase ≠ .idle) := by
  decide

theorem witness_MosaicReadAnswersTheSample :
    ((0#20).toNat < blank.memPixels ∧ mosaicRead (loaded 3 3 0 samples3x3) 0 = some 1 ∧
        (loaded 3 3 0 samples3x3).phase = .idle) ∧
      mosaicRead blank (24#20).toNat = none ∧ blank.memPixels ≤ (25#20).toNat ∧ missing.phase ≠ .idle := by
  decide

theorem witness_RgbReadAnswersThePixel :
    (rgbRead { blank with rgb := [(24, ⟨1, 2, 3⟩)] } (24#20).toNat = some ⟨1, 2, 3⟩ ∧
        { blank with rgb := [(24, (⟨1, 2, 3⟩ : Pixel))] }.phase = .idle) ∧
      rgbRead blank (24#20).toNat = none ∧ blank.memPixels ≤ (25#20).toNat ∧ missing.phase ≠ .idle := by
  decide

theorem witness_MosaicWordReadsBackItsLowByte :
    (24#20).toNat < blank.memPixels ∧ blank.phase = .idle := by decide

theorem witness_EveryTransactionGetsOneResponse :
    Gives (exec .wrId blank) (answered .error 0) ∧ Gives (exec (.wrHeight 4) blank) (answered .okay 0) ∧
      (Gives (exec (.wrCtrl true false) blank) (answered .okay 0) ∧ blank.phase = .idle) := by decide

theorem witness_AccessErrorsArePrecise :
    Gives (exec (.rdMosaic 25) { blank with accIe := true }) (fun t =>
        t.responses == blank.responses ++ [⟨.error, 0⟩] && t.accIe) ∧
      Gives (exec .wrId (recorded blank)) (fun t => t.responses == blank.responses ++ [⟨.error, 0⟩]) := by
  decide

theorem witness_TransactionsLeaveARunningOperationAlone :
    (busy missing = true ∧ Gives (exec (.wrIrqen true true true) missing) fun _ => true) ∧
      (24#20).toNat < missing.memPixels := by decide

theorem witness_SuccessfulReadsChangeNothing :
    isWrite .rdStatus = false ∧
      Gives (exec .rdStatus missing) fun t => t.responses == missing.responses ++ [⟨.okay, 1⟩] := by decide

theorem witness_FlagsChangeOnlyByTheirSetters :
    (missing.done = false ∧ Gives (step (clearing (sized 1 1 0) 0)) fun t => t.done) ∧
      Gives (step (facing { blank with done := true } [issue (.wrCtrl false true)])) (fun t => !t.done) ∧
      Gives (step (facing { blank with done := true } [.reset])) (fun t => !t.done) ∧
      Gives (step (facing blank [issue (.wrCtrl true false)])) (fun t => t.err == .zeroDim) ∧
      Gives (step (facing (recorded blank) [issue .wrStatus])) (fun t => t.accErr) ∧
      (blank.accErr = false ∧ Gives (step (facing blank [issue .wrStatus])) fun t =>
        t.accErr && t.accCause == .readOnly && t.errAddr == 0x000008 && t.errWe) ∧
      Gives (step (facing (recorded blank) [issue (.wrCtrl false true)])) (fun t => !t.accErr) := by
  decide

theorem witness_StopsAreTheModelFaults :
    (invHolds missing = true ∧ faultOf (step missing) = some .unwrittenSample) ∧
      (invHolds (facing blank [issue (.rdMosaic 0)]) = true ∧
        faultOf (step (facing blank [issue (.rdMosaic 0)])) = some .unwrittenMosaicRead) ∧
      (invHolds (facing blank [issue (.rdRgb 24)]) = true ∧
        faultOf (step (facing blank [issue (.rdRgb 24)])) = some .unwrittenRgbRead) := by decide

end Sys2Proof.Tests
end

/-! # What a transaction, a turn of the ENGINE and a step can do -/

namespace Sys2Proof.Machine

open Sys2Proof Host

/-! ## CLEAR before START (R174) -/

/-- The state on which the START of a CTRL write acts: CLEAR, if it is set, has acted first (R174). -/
def afterClear (clear : Bool) (s : State) : State := bif clear then doClear s else s

@[simp] theorem afterClear_true (s : State) : afterClear true s = doClear s := rfl

@[simp] theorem afterClear_false (s : State) : afterClear false s = s := rfl

@[simp] theorem afterClear_phase (clear : Bool) (s : State) :
    (afterClear clear s).phase = s.phase := by
  cases clear <;> rfl

/-- CLEAR writes no field that ConfigCheck reads (R175, R227). -/
@[simp] theorem configCheck_afterClear (clear : Bool) (s : State) :
    configCheck (afterClear clear s) = configCheck s := by
  cases clear <;> rfl

/-! ## Direction and offset of a transaction (R80) -/

section

variable {i : Instr} {we : Bool} {addr : Addr} {wdata : Word}

theorem isWrite_of_encode (h : encode i = packTxn we addr wdata) : isWrite i = we := by
  rw [isWrite, h, txnWe_packTxn]

theorem offsetOf_of_encode (h : encode i = packTxn we addr wdata) : offsetOf i = addr := by
  rw [offsetOf, h, txnAddr_packTxn]

end

/-! ## The effects of a transaction -/

/-- The states that transaction `i` can leave when it does not stop the block: one case for each shape of effect
of 43_host_registers.md, 44_host_windows.md and 60_exceptions.md. -/
inductive TransactionEffect (i : Instr) (s : State) : State → Prop
  /-- Refused with `cause`: the first-error capture, with the transaction's own offset and direction (R223). -/
  | refused (cause : AccCause) (hcause : cause ≠ .none) :
      TransactionEffect i s
        (respond .error 0 (recordAccessError cause (isWrite i) (offsetOf i) s))
  /-- A read that only answers (R68). -/
  | answered (rdata : Word) (hread : isWrite i = false) :
      TransactionEffect i s (respond .okay rdata s)
  /-- WR_CTRL without START (R174, R175). -/
  | controlled (clear : Bool) (hi : i = .wrCtrl false clear) :
      TransactionEffect i s (respond .okay 0 (afterClear clear s))
  /-- WR_CTRL with START, while the block is idle (R174, R176). -/
  | started (clear : Bool) (hi : i = .wrCtrl true clear) (hidle : busy s = false) :
      TransactionEffect i s (respond .okay 0 (doStart (afterClear clear s)))
  /-- A write of WIDTH, HEIGHT or LAYOUT, while the block is idle (R180, R182, R184). -/
  | configured (width height : Dim) (layout : BitVec 8) (hwrite : isWrite i = true)
      (hidle : busy s = false) :
      TransactionEffect i s
        (respond .okay 0 { s with widthR := width, heightR := height, layoutR := layout })
  /-- A write of IRQEN (R186). -/
  | enabled (doneIe errIe accIe : Bool) (hi : i = .wrIrqen doneIe errIe accIe) :
      TransactionEffect i s
        (respond .okay 0 { s with doneIe := doneIe, errIe := errIe, accIe := accIe })
  /-- A write of a MOSAIC cell that exists, while the block is idle (R202). -/
  | sampled (index : CellIndex) (sample : Byte) (hi : i = .wrMosaic index sample)
      (hcell : cellNumber index < s.memPixels) (hidle : busy s = false) :
      TransactionEffect i s (respond .okay 0 (mosaicWrite (cellNumber index) sample s))

namespace TransactionEffect

variable {i : Instr} {s t : State} {we : Bool} {addr : Addr} {wdata : Word}

/-- An access error raised with the fields of the transaction's own word refuses it. -/
theorem of_raise {cause : AccCause} (hi : encode i = packTxn we addr wdata) (hcause : cause ≠ .none)
    (h : raiseAccessError cause we addr s = .next t) : TransactionEffect i s t := by
  obtain rfl := Outcome.next.inj h
  rw [← isWrite_of_encode hi, ← offsetOf_of_encode hi]
  exact refused cause hcause

theorem of_answer (hi : encode i = packTxn false addr wdata) {rdata : Word}
    (h : answerOkay rdata s = .next t) : TransactionEffect i s t := by
  obtain rfl := Outcome.next.inj h
  exact answered rdata (isWrite_of_encode hi)

/-- A write to a frozen register stores its value or is refused with BUSY (R258). -/
theorem of_writeFrozen {store : State → State} (hi : encode i = packTxn true addr wdata)
    (hstore : isWrite i = true → busy s = false →
      TransactionEffect i s (respond .okay 0 (store s)))
    (h : writeFrozen addr store s = .next t) : TransactionEffect i s t := by
  rcases writeFrozen_cases addr store s with ⟨_, he⟩ | ⟨hidle, he⟩ <;> rw [he] at h
  · exact of_raise hi (by decide) h
  · obtain rfl := Outcome.next.inj h
    exact hstore (isWrite_of_encode hi) hidle

/-- A window access is refused with RANGE or BUSY, or has its effect (R205, R206). -/
theorem of_windowAccess {index : CellIndex} {effect : State → Outcome State Fault Refusal}
    (hi : encode i = packTxn we addr wdata)
    (heffect : cellNumber index < s.memPixels → busy s = false → effect s = .next t →
      TransactionEffect i s t)
    (h : windowAccess we addr index effect s = .next t) : TransactionEffect i s t := by
  rcases windowAccess_cases we addr index effect s with ⟨_, he⟩ | ⟨_, _, he⟩ | ⟨hcell, hidle, he⟩ <;>
    rw [he] at h
  · exact of_raise hi (by decide) h
  · exact of_raise hi (by decide) h
  · exact heffect ((cellExists_iff s index).mp hcell) hidle h

theorem of_rdMosaic {index : CellIndex} (h : execRdMosaic index s = .next t) :
    TransactionEffect (.rdMosaic index) s t := by
  refine of_windowAccess rfl (fun _ _ he => ?_) h
  cases hv : mosaicRead s (cellNumber index) with
  | none => simp [hv] at he
  | some v => exact of_answer rfl (by simpa [hv] using he)

theorem of_wrMosaic {index : CellIndex} {sample : Byte} (h : execWrMosaic index sample s = .next t) :
    TransactionEffect (.wrMosaic index sample) s t := by
  refine of_windowAccess rfl (fun hcell hidle he => ?_) h
  obtain rfl := Outcome.next.inj he
  exact sampled index sample rfl hcell hidle

theorem of_rdRgb {index : CellIndex} (h : execRdRgb index s = .next t) :
    TransactionEffect (.rdRgb index) s t := by
  refine of_windowAccess rfl (fun _ _ he => ?_) h
  cases hv : rgbRead s (cellNumber index) with
  | none => simp [hv] at he
  | some p => exact of_answer rfl (by simpa [hv] using he)

theorem of_wrCtrl {start clear : Bool} (h : execWrCtrl start clear s = .next t) :
    TransactionEffect (.wrCtrl start clear) s t := by
  rcases execWrCtrl_cases start clear s with ⟨_, _, he⟩ | ⟨hgo, he⟩ <;> rw [he] at h
  · exact of_raise rfl (by decide) h
  · obtain rfl := Outcome.next.inj h
    cases start with
    | false => exact controlled clear rfl
    | true => exact started clear rfl (hgo.resolve_left (by decide))

end TransactionEffect

/-- Every transaction that does not stop the block has one of the effects. -/
theorem exec_effect {i : Instr} {s t : State} (h : exec i s = .next t) : TransactionEffect i s t := by
  cases i with
  | rdId | rdCtrl | rdStatus | rdWidth | rdHeight | rdLayout | rdIrqen | rdCapacity | rdErraddr =>
    exact .of_answer rfl h
  | wrId | wrStatus | wrCapacity | wrErraddr | wrRgb _ | errMisaligned1 _ _ | errMisaligned2 _ _
  | errMisaligned3 _ _ | errUnmapped _ _ => exact .of_raise rfl (by decide) h
  | wrCtrl _ _ => exact .of_wrCtrl h
  | wrWidth width =>
    exact .of_writeFrozen (store := fun u => { u with widthR := width }) rfl
      (.configured width s.heightR s.layoutR) h
  | wrHeight height =>
    exact .of_writeFrozen (store := fun u => { u with heightR := height }) rfl
      (.configured s.widthR height s.layoutR) h
  | wrLayout layout =>
    exact .of_writeFrozen (store := fun u => { u with layoutR := layout }) rfl
      (.configured s.widthR s.heightR layout) h
  | wrIrqen doneIe errIe accIe =>
    obtain rfl := Outcome.next.inj h
    exact .enabled doneIe errIe accIe rfl
  | rdMosaic _ => exact .of_rdMosaic h
  | wrMosaic _ _ => exact .of_wrMosaic h
  | rdRgb _ => exact .of_rdRgb h

/-- All a step can do when it answers a next state, by its next event. -/
theorem step_next_cases {s t : State} (h : step s = .next t) :
    (∃ w, nextEvent s = .transaction w ∧ TransactionEffect (decode w) (dropEvent s) t) ∨
      (nextEvent s = .engine ∧ engineTurn (dropEvent s) = .next t) ∨
      (nextEvent s = .reset ∧ t = resetBlock (dropEvent s)) := by
  rcases step_cases s with ⟨w, he, hs⟩ | ⟨he, hs⟩ | ⟨he, hs⟩ <;> rw [hs] at h
  · exact .inl ⟨w, he, exec_effect h⟩
  · exact .inr (.inl ⟨he, h⟩)
  · exact .inr (.inr ⟨he, (Outcome.next.inj h).symm⟩)

/-! ## PHASE and DONE -/

/-- START leaves PHASE, or it accepts the configuration and goes to the clear phase (R176). -/
theorem doStart_phase (s : State) :
    (doStart s).phase = s.phase ∨ (configCheck s = .none ∧ (doStart s).phase = .clear) := by
  rcases doStart_cases s with ⟨hcheck, he⟩ | ⟨_, he⟩ <;> rw [he]
  · exact .inr ⟨hcheck, rfl⟩
  · exact .inl rfl

/-- A transaction leaves PHASE as it is, or it is a START that the idle block accepts (R176). -/
theorem TransactionEffect.phase_cases {i : Instr} {s t : State} (h : TransactionEffect i s t) :
    t.phase = s.phase ∨
      ((∃ clear, i = .wrCtrl true clear) ∧ s.phase = .idle ∧ configCheck s = .none ∧
        t.phase = .clear) := by
  cases h with
  | refused cause _ => left; rw [recordAccessError_frame]; rfl
  | controlled clear _ => left; simp
  | started clear hi hidle =>
    rcases doStart_phase (afterClear clear s) with hp | ⟨hcheck, hp⟩
    · left; simpa using hp
    · right
      exact ⟨⟨clear, hi⟩, (busy_eq_false_iff s).mp hidle, by simpa using hcheck, hp⟩
  | answered | configured | enabled | sampled => exact .inl rfl

/-- A CLEAR_STEP leaves DONE and stays in its phase or goes to the scan, or it ends the operation (R141, R142). -/
theorem nextCell_phase_done (s : State) :
    (((nextCell s).phase = s.phase ∨ (nextCell s).phase = .scan) ∧ (nextCell s).done = s.done) ∨
      ((nextCell s).phase = .idle ∧ (nextCell s).done = true) := by
  rcases nextCell_cases s with ⟨_, he⟩ | ⟨_, he⟩ <;> rw [he]
  · exact .inl ⟨.inl rfl, rfl⟩
  · rcases handOver_cases { s with cidx := s.cidx + 1 } with ⟨_, _, he'⟩ | ⟨_, he'⟩ <;> rw [he']
    · exact .inl ⟨.inr rfl, rfl⟩
    · exact .inr ⟨rfl, rfl⟩

/-- Advance leaves PHASE and DONE, or it ends the operation (R148, R149). -/
theorem advance_phase_done (s : State) :
    ((advance s).phase = s.phase ∧ (advance s).done = s.done) ∨
      ((advance s).phase = .idle ∧ (advance s).done = true) := by
  rcases advance_cases s with ⟨_, he⟩ | ⟨_, _, he⟩ | ⟨_, _, he⟩ <;> rw [he]
  · exact .inl ⟨rfl, rfl⟩
  · exact .inl ⟨rfl, rfl⟩
  · exact .inr ⟨rfl, rfl⟩

/-- A turn of the ENGINE leaves PHASE and DONE, or goes from the clear phase to the scan, or ends the operation
in progress and sets DONE (R142, R149). -/
theorem engineTurn_phase_done {s t : State} (h : engineTurn s = .next t) :
    (t.phase = s.phase ∧ t.done = s.done) ∨
      (s.phase = .clear ∧ t.phase = .scan ∧ t.done = s.done) ∨
      (s.phase ≠ .idle ∧ t.phase = .idle ∧ t.done = true) := by
  rcases engineTurn_next_cases h with ⟨_, rfl⟩ | ⟨hp, _, rfl⟩ | ⟨hp, _, _, p, _, rfl⟩
  · exact .inl ⟨rfl, rfl⟩
  · rcases nextCell_phase_done (rgbWrite s.cidx blackPixel s) with ⟨hph | hph, hd⟩ | ⟨hph, hd⟩
    · exact .inl ⟨hph, hd⟩
    · exact .inr (.inl ⟨hp, hph, hd⟩)
    · exact .inr (.inr ⟨by simp [hp], hph, hd⟩)
  · rcases advance_phase_done (rgbWrite (pixelIndex s s.sy.toNat s.sx.toNat) p s) with
      hkeep | ⟨hph, hd⟩
    · exact .inl hkeep
    · exact .inr (.inr ⟨by simp [hp], hph, hd⟩)

/-! ## The status flags and the access-error record -/

/-- `t` holds the access-error record of `s`, the four fields of R34 and R37. -/
abbrev SameRecord (s t : State) : Prop :=
  t.accErr = s.accErr ∧ t.accCause = s.accCause ∧ t.errAddr = s.errAddr ∧ t.errWe = s.errWe

/-- `t` holds no access error, as after a CLEAR or a reset (R175, R251). -/
abbrev RecordCleared (t : State) : Prop :=
  t.accErr = false ∧ t.accCause = .none ∧ t.errAddr = 0#24 ∧ t.errWe = false

/-- START writes no field of the access-error record (R176). -/
theorem doStart_record (s : State) : SameRecord s (doStart s) := by
  rcases doStart_cases s with ⟨_, he⟩ | ⟨_, he⟩ <;> rw [he] <;> exact ⟨rfl, rfl, rfl, rfl⟩

@[simp] theorem doStart_done (s : State) : (doStart s).done = false := by
  rcases doStart_cases s with ⟨_, he⟩ | ⟨_, he⟩ <;> rw [he]

/-- A transaction leaves DONE and ERR, or it is a CTRL write with START or CLEAR, after which DONE is 0 (R35, R36). -/
theorem TransactionEffect.flags_cases {i : Instr} {s t : State} (h : TransactionEffect i s t) :
    (t.done = s.done ∧ t.err = s.err) ∨
      (t.done = false ∧ ∃ start clear, i = .wrCtrl start clear ∧ (start = true ∨ clear = true)) := by
  cases h with
  | refused => left; rw [recordAccessError_frame]; exact ⟨rfl, rfl⟩
  | controlled clear hi =>
    cases clear with
    | false => exact .inl ⟨rfl, rfl⟩
    | true => exact .inr ⟨rfl, false, true, hi, .inr rfl⟩
  | started clear hi _ => exact .inr ⟨by simp, true, clear, hi, .inl rfl⟩
  | answered | configured | enabled | sampled => exact .inl ⟨rfl, rfl⟩

/-- A transaction leaves the access-error record, or it is the first that is refused and is captured, or its CLEAR
clears the record (R175, R223). -/
theorem TransactionEffect.record_cases {i : Instr} {s t : State} (h : TransactionEffect i s t) :
    SameRecord s t ∨
      (s.accErr = false ∧ t.responses = s.responses ++ [⟨.error, 0#32⟩] ∧ t.accErr = true ∧
        t.accCause ≠ .none ∧ t.errAddr = offsetOf i ∧ t.errWe = isWrite i) ∨
      ((∃ start, i = .wrCtrl start true) ∧ RecordCleared t) := by
  cases h with
  | refused cause hcause =>
    rcases recordAccessError_cases cause (isWrite i) (offsetOf i) s with ⟨_, he⟩ | ⟨hs, he⟩ <;> rw [he]
    · exact .inl ⟨rfl, rfl, rfl, rfl⟩
    · exact .inr (.inl ⟨hs, rfl, rfl, hcause, rfl, rfl⟩)
  | controlled clear hi =>
    cases clear with
    | false => exact .inl ⟨rfl, rfl, rfl, rfl⟩
    | true => exact .inr (.inr ⟨⟨false, hi⟩, rfl, rfl, rfl, rfl⟩)
  | started clear hi _ =>
    have hrec := doStart_record (afterClear clear s)
    cases clear with
    | false => exact .inl hrec
    | true => exact .inr (.inr ⟨⟨true, hi⟩, hrec⟩)
  | answered | configured | enabled | sampled => exact .inl ⟨rfl, rfl, rfl, rfl⟩

end Sys2Proof.Machine

/-! # The invariant of the block -/

namespace Sys2Proof.Machine

open Sys2Proof Host

/-! ## Fields the invariant does not read -/

theorem blockInv_dropEvent {s : State} (h : BlockInv s) : BlockInv (dropEvent s) := h

theorem blockInv_respond {s : State} (r : Resp) (d : Word) (h : BlockInv s) :
    BlockInv (respond r d s) := h

theorem blockInv_setEnables {s : State} (doneIe errIe accIe : Bool) (h : BlockInv s) :
    BlockInv { s with doneIe := doneIe, errIe := errIe, accIe := accIe } := h

/-! ## Transactions and reset -/

/-- While the block is idle the invariant asks nothing of the operation. -/
theorem blockInv_of_idle {s : State} (hidle : s.phase = .idle) (hparam : ParamOk s)
    (hmem : MemoriesOk s) (hrec : RecordOk s) (hdone : s.done = true → s.err = .none) :
    BlockInv s := by
  have hbusy : busy s = false := (busy_eq_false_iff s).mpr hidle
  exact ⟨hparam, hmem, hrec, ⟨by simp [hbusy], hdone⟩, by simp [ConfigOk, hbusy],
    by simp [ClearOk, hidle], by simp [ScanOk, hidle]⟩

theorem blockInv_recordAccessError {s : State} {cause : AccCause} (we : Bool) (addr : Addr)
    (hcause : cause ≠ .none) (h : BlockInv s) : BlockInv (recordAccessError cause we addr s) := by
  rcases recordAccessError_cases cause we addr s with ⟨_, he⟩ | ⟨_, he⟩ <;> rw [he]
  · exact h
  · obtain ⟨hparam, hmem, _, hflags, hconfig, hclear, hscan⟩ := h
    exact ⟨hparam, hmem, ⟨by simp [hcause], by simp⟩, hflags, hconfig, hclear, hscan⟩

theorem blockInv_afterClear {s : State} (clear : Bool) (h : BlockInv s) :
    BlockInv (afterClear clear s) := by
  cases clear with
  | false => exact h
  | true =>
    obtain ⟨hparam, hmem, _, _, hconfig, hclear, hscan⟩ := h
    exact ⟨hparam, hmem, ⟨by simp, by simp⟩, ⟨by simp, by simp⟩, hconfig, hclear, hscan⟩

/-- A valid configuration has a pixel, so CIDX starts inside the image (R227, R141). -/
theorem imagePixels_pos {s : State} (h : ConfigValid s) : 0 < imagePixels s := by
  obtain ⟨hw, hh, _, _⟩ := h
  exact Nat.mul_pos hw hh

/-- START of an idle block begins the clear phase with no cell cleared yet, or leaves the block idle (R176). -/
theorem blockInv_doStart {s : State} (hidle : s.phase = .idle) (h : BlockInv s) :
    BlockInv (doStart s) := by
  obtain ⟨hparam, hmem, hrec, _, _, _, _⟩ := h
  rcases doStart_cases s with ⟨hcheck, he⟩ | ⟨_, he⟩ <;> rw [he]
  · have hvalid : ConfigValid s := (configCheck_eq_none_iff s).mp hcheck
    exact ⟨hparam, hmem, hrec, ⟨by simp, by simp⟩, fun _ => hvalid,
      fun _ => ⟨imagePixels_pos hvalid, by simp⟩, by simp [ScanOk]⟩
  · exact blockInv_of_idle hidle hparam hmem hrec (by simp)

theorem memoriesOk_mosaicWrite {s : State} {i : Nat} (v : Byte) (hi : i < s.memPixels)
    (h : MemoriesOk s) : MemoriesOk (mosaicWrite i v s) := by
  obtain ⟨hmw, hmb, hrw, hrb⟩ := h
  exact ⟨Memory.wf_write i v hmw, Memory.below_write v hmb hi, hrw, hrb⟩

theorem memoriesOk_rgbWrite {s : State} {i : Nat} (p : Pixel) (hi : i < s.memPixels)
    (h : MemoriesOk s) : MemoriesOk (rgbWrite i p s) := by
  obtain ⟨hmw, hmb, hrw, hrb⟩ := h
  exact ⟨hmw, hmb, Memory.wf_write i p hrw, Memory.below_write p hrb hi⟩

/-- Every transaction keeps the invariant: those that write what it speaks of a running operation are refused
while there is one (R258). -/
theorem TransactionEffect.keeps_blockInv {i : Instr} {s t : State} (heff : TransactionEffect i s t)
    (h : BlockInv s) : BlockInv t := by
  cases heff with
  | refused cause hcause =>
    exact blockInv_respond _ _ (blockInv_recordAccessError _ _ hcause h)
  | answered => exact blockInv_respond _ _ h
  | controlled clear _ => exact blockInv_respond _ _ (blockInv_afterClear clear h)
  | started clear _ hidle =>
    have hidle' : (afterClear clear s).phase = .idle := by simpa [busy_eq_false_iff] using hidle
    exact blockInv_respond _ _ (blockInv_doStart hidle' (blockInv_afterClear clear h))
  | configured _ _ _ _ hidle =>
    obtain ⟨hparam, hmem, hrec, ⟨_, hdone⟩, _, _, _⟩ := h
    exact blockInv_respond _ _
      (blockInv_of_idle ((busy_eq_false_iff s).mp hidle) hparam hmem hrec hdone)
  | enabled doneIe errIe accIe _ =>
    exact blockInv_respond _ _ (blockInv_setEnables doneIe errIe accIe h)
  | sampled _ v _ hcell hidle =>
    obtain ⟨hparam, hmem, hrec, ⟨_, hdone⟩, _, _, _⟩ := h
    exact blockInv_respond _ _ (blockInv_of_idle ((busy_eq_false_iff s).mp hidle) hparam
      (memoriesOk_mosaicWrite v hcell hmem) hrec hdone)

theorem blockInv_resetBlock {s : State} (h : BlockInv s) : BlockInv (resetBlock s) := by
  obtain ⟨hparam, _⟩ := h
  exact blockInv_of_idle rfl hparam ⟨rfl, rfl, rfl, rfl⟩ ⟨by simp, by simp⟩ (by simp)

/-! ## The parts of the invariant that every ENGINE step keeps alike -/

/-- An ENGINE step from a busy state keeps the invariant if it leaves the memories canonical, keeps what the phase
it goes to says of RGB, and either leaves DONE or ends the operation. -/
theorem blockInv_of_engineFrame {s t : State} (hs : BlockInv s) (hbusy : busy s = true)
    (hframe : EngineFrame s t) (hmem : MemoriesOk t) (hdone : t.done = s.done ∨ t.phase = .idle)
    (hclear : ClearOk t) (hscan : ScanOk t) : BlockInv t := by
  obtain ⟨hparam, _, hrec, ⟨hflags, _⟩, hconfig, _, _⟩ := hs
  obtain ⟨hd, he⟩ := hflags hbusy
  have herr : t.err = .none := hframe.err.trans he
  refine ⟨?_, hmem, ?_, ⟨fun hb => ⟨?_, herr⟩, fun _ => herr⟩, fun _ => ?_, hclear, hscan⟩
  · rw [ParamOk, hframe.memPixels]; exact hparam
  · rw [RecordOk, hframe.accCause, hframe.accErr, hframe.errAddr, hframe.errWe]; exact hrec
  · exact (hdone.resolve_right ((busy_eq_true_iff t).mp hb)).trans hd
  · rw [ConfigValid, hframe.widthR, hframe.heightR, hframe.memPixels, hframe.layoutR]
    exact hconfig hbusy

/-- The memories stay canonical across an ENGINE step, which writes one RGB cell that exists. -/
theorem memoriesOk_of_engineFrame {s t : State} {i : Nat} {p : Pixel} (hframe : EngineFrame s t)
    (hrgb : t.rgb = (rgbWrite i p s).rgb) (hi : i < s.memPixels) (h : MemoriesOk s) :
    MemoriesOk t := by
  rw [MemoriesOk, hframe.memPixels, hframe.mosaic, hrgb]
  exact memoriesOk_rgbWrite p hi h

/-! ## The clear phase (R141, R142) -/

/-- The border of the image is black, scanned or not. -/
theorem partialCell_of_not_interior {s : State} {y x : Nat} (h : isInterior s y x = false) :
    partialCell s y x = some blackPixel := by
  simp [partialCell, imageCell, h]

/-- Before its first step the scan has been nowhere but on the border. -/
theorem partialCell_at_start {s : State} (hy : s.sy = 1) (hx : s.sx = 1) (y x : Nat) :
    partialCell s y x = some blackPixel := by
  by_cases hin : isInterior s y x = true
  · obtain ⟨hy1, _, hx1, _⟩ := (isInterior_iff s y x).mp hin
    have hnot : isScanned s y x = false := by
      simp [isScanned, hy, hx]
      omega
    simp [partialCell, hnot]
  · exact partialCell_of_not_interior (by simpa using hin)

/-- Over an all-black image HandOver starts the scan with its part of the invariant, or ends the operation. -/
theorem scanOk_handOver {s : State}
    (hblack : ∀ i < imagePixels s, rgbRead s i = some blackPixel) : ScanOk (handOver s) := by
  rcases handOver_cases s with ⟨hw, hh, he⟩ | ⟨_, he⟩ <;> rw [he]
  · intro _
    refine ⟨(isInterior_iff _ _ _).mpr ⟨by simp, by simpa using hh, by simp, by simpa using hw⟩,
      fun y hy x hx => ?_⟩
    rw [partialCell_at_start rfl rfl]
    exact ⟨hblack _ (pixelIndex_lt hy hx), rfl⟩
  · simp [ScanOk]

theorem handOver_phase_ne_clear (s : State) : (handOver s).phase ≠ .clear := by
  rcases handOver_cases s with ⟨_, _, he⟩ | ⟨_, he⟩ <;> rw [he] <;> simp

/-- After a CLEAR_STEP one more cell is black (R141). -/
theorem rgbRead_rgbWrite_black {s : State} (hlt : s.cidx < s.memPixels)
    (h : ∀ i < s.cidx, rgbRead s i = some blackPixel) :
    ∀ i < s.cidx + 1, rgbRead (rgbWrite s.cidx blackPixel s) i = some blackPixel := by
  intro i hi
  by_cases heq : i = s.cidx
  · rw [heq]
    exact rgbRead_rgbWrite_same _ hlt
  · rw [rgbRead_rgbWrite_other _ heq]
    exact h i (by omega)

/-- A CLEAR_STEP keeps what the invariant says of RGB, in the clear phase and at its end. -/
theorem clearOk_scanOk_nextCell {s : State} (hphase : s.phase = .clear)
    (hlt : s.cidx < s.memPixels) (h : ClearOk s) :
    ClearOk (nextCell (rgbWrite s.cidx blackPixel s)) ∧
      ScanOk (nextCell (rgbWrite s.cidx blackPixel s)) := by
  obtain ⟨hcidx, hcells⟩ := h hphase
  have hblack := rgbRead_rgbWrite_black hlt hcells
  rcases nextCell_cases (rgbWrite s.cidx blackPixel s) with ⟨hne, he⟩ | ⟨hlast, he⟩ <;> rw [he]
  · exact ⟨fun _ => ⟨Nat.lt_of_le_of_ne hcidx hne, hblack⟩, by simp [ScanOk, hphase]⟩
  · refine ⟨fun hc => absurd hc (handOver_phase_ne_clear _), scanOk_handOver fun i hi => ?_⟩
    exact hblack i (lt_of_lt_of_eq hi hlast.symm)

theorem blockInv_clearStep {s : State} (hphase : s.phase = .clear) (hlt : s.cidx < s.memPixels)
    (h : BlockInv s) : BlockInv (nextCell (rgbWrite s.cidx blackPixel s)) := by
  have ⟨_, hmem, _, _, _, hclear, _⟩ := h
  obtain ⟨hframe, hrgb⟩ := nextCell_frame (rgbWrite s.cidx blackPixel s)
  obtain ⟨hclear', hscan'⟩ := clearOk_scanOk_nextCell hphase hlt hclear
  have hdone : (nextCell (rgbWrite s.cidx blackPixel s)).done = s.done ∨
      (nextCell (rgbWrite s.cidx blackPixel s)).phase = .idle :=
    (nextCell_phase_done _).imp And.right And.left
  exact blockInv_of_engineFrame h ((busy_eq_true_iff s).mpr (by simp [hphase]))
    hframe.after_rgbWrite (memoriesOk_of_engineFrame hframe.after_rgbWrite hrgb hlt hmem) hdone
    hclear' hscan'

/-! ## The scan (R143, R148) -/

theorem isScanned_iff (s : State) (y x : Nat) :
    isScanned s y x = true ↔ y < s.sy.toNat ∨ (y = s.sy.toNat ∧ x < s.sx.toNat) := by
  simp [isScanned]

/-- A coordinate inside the image has a successor that does not wrap. -/
theorem toNat_add_one {d e : Dim} (h : d.toNat < e.toNat) : (d + 1).toNat = d.toNat + 1 := by
  have := e.isLt
  have hone : (1 : Dim).toNat = 1 := rfl
  rw [BitVec.toNat_add_of_lt (by omega), hone]

/-- What Advance does unless it ends the operation: the next pixel is interior, and among interior pixels just the
one that was next has become scanned (R148). -/
theorem advance_scan {s : State} (hphase : s.phase = .scan)
    (hin : isInterior s s.sy.toNat s.sx.toNat = true) :
    (advance s).phase = .idle ∨
      ((advance s).phase = .scan ∧
        isInterior (advance s) (advance s).sy.toNat (advance s).sx.toNat = true ∧
        ∀ y x, isInterior s y x = true →
          (isScanned (advance s) y x = true ↔
            isScanned s y x = true ∨ (y = s.sy.toNat ∧ x = s.sx.toNat))) := by
  obtain ⟨hy1, hyH, hx1, hxW⟩ := (isInterior_iff _ _ _).mp hin
  rcases advance_cases s with ⟨hx, he⟩ | ⟨hx, hy, he⟩ | ⟨_, _, he⟩ <;> rw [he]
  · have hsx : (s.sx + 1).toNat = s.sx.toNat + 1 := toNat_add_one (e := s.widthR) (by omega)
    refine .inr ⟨hphase, ?_, fun y x _ => ?_⟩
    · simp only [isInterior_iff, hsx]
      omega
    · simp only [isScanned_iff, hsx]
      omega
  · have hsy : (s.sy + 1).toNat = s.sy.toNat + 1 := toNat_add_one (e := s.heightR) (by omega)
    have hone : (1 : Dim).toNat = 1 := rfl
    refine .inr ⟨hphase, ?_, fun y x hyx => ?_⟩
    · simp only [isInterior_iff, hsy, hone]
      omega
    · rw [isInterior_iff] at hyx
      simp only [isScanned_iff, hsy, hone]
      omega
  · exact .inl rfl

/-- The image is a function of what the ENGINE leaves alone (R150, R153). -/
theorem EngineFrame.imageCell_eq {s t : State} (h : EngineFrame s t) (y x : Nat) :
    imageCell t y x = imageCell s y x :=
  imageCell_congr h.memPixels h.mosaic h.widthR h.heightR h.layoutR y x

/-- Away from the pixel that becomes scanned, what RGB should hold does not change. -/
theorem partialCell_of_scanned_iff {s t : State} (hframe : EngineFrame s t) {y x : Nat}
    (hscan : isInterior s y x = true → (isScanned t y x = true ↔ isScanned s y x = true)) :
    partialCell t y x = partialCell s y x := by
  by_cases hin : isInterior s y x = true
  · simp only [partialCell, hframe.imageCell_eq, hscan hin]
  · have hout : isInterior s y x = false := by simpa using hin
    have hout' : isInterior t y x = false := by
      rwa [isInterior_congr hframe.widthR hframe.heightR]
    rw [partialCell_of_not_interior hout, partialCell_of_not_interior hout']

/-- A PIXEL_STEP keeps what the invariant says of RGB in the scan (R143, R148, R150). -/
theorem scanOk_advance {s : State} {p : Pixel} (hphase : s.phase = .scan)
    (hlt : pixelIndex s s.sy.toNat s.sx.toNat < s.memPixels)
    (hp : pixelAt s s.sy.toNat s.sx.toNat = some p) (h : ScanOk s) :
    ScanOk (advance (rgbWrite (pixelIndex s s.sy.toNat s.sx.toNat) p s)) := by
  obtain ⟨hin, hcells⟩ := h hphase
  obtain ⟨_, _, _, hxW⟩ := (isInterior_iff _ _ _).mp hin
  set u := rgbWrite (pixelIndex s s.sy.toNat s.sx.toNat) p s with hu
  obtain ⟨hframe, hrgb⟩ := advance_frame u
  have hframe' : EngineFrame s (advance u) := hframe.after_rgbWrite
  intro hscan
  rcases advance_scan (s := u) hphase hin with hidle | ⟨_, hin', hscanned⟩
  · rw [hidle] at hscan
    exact absurd hscan (by decide)
  refine ⟨hin', fun y hy x hx => ?_⟩
  rw [hframe'.heightR] at hy
  rw [hframe'.widthR] at hx
  have hread : rgbRead (advance u) (pixelIndex (advance u) y x) = rgbRead u (pixelIndex s y x) := by
    rw [rgbRead_congr hframe.memPixels hrgb, pixelIndex, pixelIndex, hframe'.widthR]
  rw [hread]
  by_cases hcur : y = s.sy.toNat ∧ x = s.sx.toNat
  · obtain ⟨rfl, rfl⟩ := hcur
    have hnow : isScanned (advance u) s.sy.toNat s.sx.toNat = true :=
      (hscanned _ _ hin).mpr (.inr ⟨rfl, rfl⟩)
    have hpart : partialCell (advance u) s.sy.toNat s.sx.toNat = some p := by
      rw [partialCell, if_pos hnow, hframe'.imageCell_eq, imageCell, if_pos hin, hp]
    rw [hpart]
    exact ⟨rgbRead_rgbWrite_same p hlt, rfl⟩
  · have hother : pixelIndex s y x ≠ pixelIndex s s.sy.toNat s.sx.toNat := fun hidx =>
      hcur (pixelIndex_injective hx (by omega) hidx)
    have hpart : partialCell (advance u) y x = partialCell s y x :=
      partialCell_of_scanned_iff hframe' fun hyx =>
        (hscanned y x hyx).trans (or_iff_left hcur)
    rw [hpart, hu, rgbRead_rgbWrite_other p hother]
    exact hcells y hy x hx

theorem blockInv_pixelStep {s : State} {p : Pixel} (hphase : s.phase = .scan)
    (hlt : pixelIndex s s.sy.toNat s.sx.toNat < s.memPixels)
    (hp : pixelAt s s.sy.toNat s.sx.toNat = some p) (h : BlockInv s) :
    BlockInv (advance (rgbWrite (pixelIndex s s.sy.toNat s.sx.toNat) p s)) := by
  have ⟨_, hmem, _, _, _, _, hscan⟩ := h
  set u := rgbWrite (pixelIndex s s.sy.toNat s.sx.toNat) p s
  obtain ⟨hframe, hrgb⟩ := advance_frame u
  have hclear : ClearOk (advance u) := by
    rcases advance_phase_done u with ⟨hph, _⟩ | ⟨hph, _⟩ <;> intro hc <;> rw [hph] at hc
    · exact absurd (hphase.symm.trans hc) (by decide)
    · exact absurd hc (by decide)
  exact blockInv_of_engineFrame h ((busy_eq_true_iff s).mpr (by simp [hphase]))
    hframe.after_rgbWrite (memoriesOk_of_engineFrame hframe.after_rgbWrite hrgb hlt hmem)
    ((advance_phase_done u).imp And.right And.left) hclear (scanOk_advance hphase hlt hp hscan)

theorem blockInv_engineTurn {s t : State} (h : BlockInv s) (ht : engineTurn s = .next t) :
    BlockInv t := by
  rcases engineTurn_next_cases ht with ⟨_, rfl⟩ | ⟨hphase, hlt, rfl⟩ | ⟨hphase, _, hlt, p, hp, rfl⟩
  · exact h
  · exact blockInv_clearStep hphase hlt h
  · exact blockInv_pixelStep hphase hlt hp h

end Sys2Proof.Machine

/-! # The statements about the state -/

namespace Sys2Proof.Machine

open Sys2Proof Host

/-- Settles O12, by the effect of each kind of event. -/
theorem everyStepKeepsTheInvariant : Obligations.EveryStepKeepsTheInvariant := by
  intro s t hs h
  have hs' := blockInv_dropEvent hs
  rcases step_next_cases h with ⟨w, _, heff⟩ | ⟨_, heng⟩ | ⟨_, rfl⟩
  · exact heff.keeps_blockInv hs'
  · exact blockInv_engineTurn hs' heng
  · exact blockInv_resetBlock hs'

/-- Settles O32, by the moves of PHASE of each kind of event. -/
theorem phaseMovesOnlyAsListed : Obligations.PhaseMovesOnlyAsListed := by
  refine ⟨rfl, fun s t h => ?_⟩
  rcases step_next_cases h with ⟨w, hev, heff⟩ | ⟨hev, heng⟩ | ⟨hev, rfl⟩
  · rcases heff.phase_cases with hsame | ⟨⟨c, hi⟩, hidle, hcheck, hclear⟩
    · exact ⟨fun hs ht => absurd (hsame.trans hs) ht, fun _ ht => absurd hsame ht⟩
    · exact ⟨fun _ _ => ⟨hclear, hcheck, w, c, hev, hi⟩, fun hs => absurd hidle hs⟩
  · rcases engineTurn_phase_done heng with ⟨hsame, _⟩ | ⟨hc, hscan, _⟩ | ⟨hbusy, hidle, _⟩
    · exact ⟨fun hs ht => absurd (hsame.trans hs) ht, fun _ ht => absurd hsame ht⟩
    · exact ⟨fun hs => absurd (hs.symm.trans hc) (by decide),
        fun _ _ => .inr ⟨hev, .inl ⟨hc, .inl hscan⟩⟩⟩
    · refine ⟨fun hs => absurd hs hbusy, fun _ _ => .inr ⟨hev, ?_⟩⟩
      cases hp : s.phase with
      | idle => exact absurd hp hbusy
      | clear => exact .inl ⟨rfl, .inr hidle⟩
      | scan => exact .inr ⟨rfl, hidle⟩
  · exact ⟨fun _ ht => absurd rfl ht, fun _ _ => .inl ⟨hev, rfl⟩⟩

/-- Settles O55, by the setters of each kind of event. -/
theorem flagsChangeOnlyByTheirSetters : Obligations.FlagsChangeOnlyByTheirSetters := by
  intro s t h
  rcases step_next_cases h with ⟨w, hev, heff⟩ | ⟨hev, heng⟩ | ⟨hev, rfl⟩
  · refine ⟨fun hs ht => ?_, fun hs ht => ?_, fun ht => ?_, ?_⟩
    · rcases heff.flags_cases with ⟨hdone, _⟩ | ⟨hdone, _⟩
      · exact absurd (hdone.trans hs) (by simp [ht])
      · exact absurd hdone (by simp [ht])
    · rcases heff.flags_cases with ⟨hdone, _⟩ | ⟨_, a, b, hi, hab⟩
      · exact absurd (hdone.trans hs) (by simp [ht])
      · exact .inr ⟨w, a, b, hev, hi, hab⟩
    · rcases heff.flags_cases with ⟨_, herr⟩ | ⟨_, a, b, hi, hab⟩
      · exact absurd herr ht
      · exact .inr ⟨w, a, b, hev, hi, hab⟩
    · rcases heff.record_cases with hsame | ⟨hs, hcapture⟩ | ⟨⟨a, hi⟩, hcleared⟩
      · exact .inl hsame
      · exact .inr (.inl ⟨hs, w, hev, hcapture⟩)
      · exact .inr (.inr ⟨.inr ⟨w, a, hev, hi⟩, hcleared⟩)
  · have hframe := engineTurn_frame heng
    have hdone : t.done = s.done ∨ (s.phase ≠ .idle ∧ t.phase = .idle ∧ t.done = true) := by
      rcases engineTurn_phase_done heng with ⟨_, hd⟩ | ⟨_, _, hd⟩ | hend
      · exact .inl hd
      · exact .inl hd
      · exact .inr hend
    refine ⟨fun hs ht => ?_, fun hs ht => ?_, fun ht => absurd hframe.err ht,
      .inl ⟨hframe.accErr, hframe.accCause, hframe.errAddr, hframe.errWe⟩⟩
    · rcases hdone with hd | ⟨hbusy, hidle, _⟩
      · exact absurd (hd.trans hs) (by simp [ht])
      · exact ⟨hev, (busy_eq_true_iff s).mpr hbusy, (busy_eq_false_iff t).mpr hidle⟩
    · rcases hdone with hd | ⟨_, _, hd⟩
      · exact absurd (hd.trans hs) (by simp [ht])
      · exact absurd hd (by simp [ht])
  · exact ⟨fun _ ht => absurd ht (by simp), fun _ _ => .inl hev, fun _ => .inl hev,
      .inr (.inr ⟨.inl hev, rfl, rfl, rfl, rfl⟩)⟩

/-- Settles O41: the three sources as `irq` lists them, each 0 after reset. -/
theorem interruptIsTheOrOfItsSources : Obligations.InterruptIsTheOrOfItsSources := by
  refine ⟨fun s => ?_, by simp [irq]⟩
  simp only [irq, Bool.or_eq_true, Bool.and_eq_true, decide_eq_true_eq, or_assoc]

end Sys2Proof.Machine

/-! # The statements about the host port's words -/

namespace Sys2Proof.Machine

open Sys2Proof Host

/-! ## The effects that the statements write out -/

/-- An access error leaves the state that Safety.lean writes out (R223). -/
theorem raiseAccessError_eq_refusedState (cause : AccCause) (we : Bool) (addr : Addr) (s : State) :
    raiseAccessError cause we addr s = .next (refusedState cause we addr s) := by
  rw [raiseAccessError_eq]
  rcases recordAccessError_cases cause we addr s with ⟨hs, he⟩ | ⟨hs, he⟩ <;>
    simp [he, respond, refusedState, hs]

/-- A read that does not stop the block answers and does nothing else, or is refused (R68, R223). -/
theorem TransactionEffect.read_cases {i : Instr} {s t : State} (h : TransactionEffect i s t)
    (hread : isWrite i = false) :
    (∃ rdata, t = answeredState rdata s) ∨ t.responses = s.responses ++ [⟨.error, 0#32⟩] := by
  cases h with
  | answered rdata _ => exact .inl ⟨rdata, rfl⟩
  | refused cause _ => right; rw [recordAccessError_frame]; rfl
  | configured _ _ _ hwrite _ => simp [hread] at hwrite
  | controlled _ hi | started _ hi _ | enabled _ _ _ hi | sampled _ _ hi _ _ =>
    subst hi
    rw [isWrite_of_encode rfl] at hread
    exact absurd hread (by decide)

/-! ## The MOSAIC window (R61, R65, R200) -/

/-- The offset of MOSAIC cell `i` as a number (R61). -/
theorem mosaicAddr_eq_ofNat (i : CellIndex) :
    mosaicAddr i = BitVec.ofNat 24 (0x400000 + 4 * i.toNat) := by
  have hi := i.isLt
  apply BitVec.eq_of_toNat_eq
  simp only [mosaicAddr, BitVec.toNat_append, BitVec.toNat_ofNat]
  rw [← Nat.shiftLeft_add_eq_or_of_lt (by omega), ← Nat.shiftLeft_add_eq_or_of_lt (by omega)]
  simp only [Nat.shiftLeft_eq]
  omega

/-- The class of a word at MOSAIC cell `i` (R83 step 3). -/
theorem decode_mosaicWord (we : Bool) (i : CellIndex) (d : Word) :
    decode (packTxn we (BitVec.ofNat 24 (0x400000 + 4 * i.toNat)) d) =
      if we then .wrMosaic i (d.extractLsb' 0 8) else .rdMosaic i := by
  rw [← mosaicAddr_eq_ofNat, decode_packTxn, decodeFields_mosaicAddr]

/-- What a MOSAIC read answers for the sample of a data word is that word's low byte (R65). -/
theorem sampleWord_low8_toNat (d : Word) :
    (sampleWord (d.extractLsb' 0 8)).toNat = d.toNat % 256 := by
  simp only [sampleWord, BitVec.toNat_setWidth, BitVec.extractLsb'_toNat, Nat.shiftRight_zero]
  omega

section

variable {s : State} {i : CellIndex}

/-- A window access to a cell of the idle block has its effect (R200). -/
theorem windowAccess_of_idle (we : Bool) (addr : Addr)
    (effect : State → Outcome State Fault Refusal) (hi : i.toNat < s.memPixels)
    (hidle : s.phase = .idle) : windowAccess we addr i effect s = effect s := by
  rw [windowAccess, if_pos ((cellExists_iff s i).mpr hi)]
  simp [(busy_eq_false_iff s).mpr hidle]

theorem exec_wrMosaic_of_idle (v : Byte) (hi : i.toNat < s.memPixels) (hidle : s.phase = .idle) :
    exec (.wrMosaic i v) s = .next (answeredState 0#32 (mosaicWrite i.toNat v s)) := by
  rw [exec, execWrMosaic, windowAccess_of_idle _ _ _ hi hidle]
  rfl

theorem exec_rdMosaic_of_written {v : Byte} (hi : i.toNat < s.memPixels) (hidle : s.phase = .idle)
    (hv : mosaicRead s i.toNat = some v) :
    exec (.rdMosaic i) s = .next (answeredState (sampleWord v) s) := by
  rw [exec, execRdMosaic, windowAccess_of_idle _ _ _ hi hidle, hv]
  rfl

end

/-! ## The obligations -/

/-- Settles O5: each of the three misaligned classes raises MISALIGNED at the word's own offset. -/
theorem misalignedWordsAreRefused : Obligations.MisalignedWordsAreRefused := by
  intro t s hlow
  rw [← raiseAccessError_eq_refusedState, ← slotAddr_parts (txnAddr t)]
  rcases decodeFields_misaligned hlow (txnWe t) (txnData t) with ⟨hi, hb⟩ | ⟨hi, hb⟩ | ⟨hi, hb⟩ <;>
    rw [decode, hi, hb] <;> rfl

/-- Settles O50: the write stores the low byte, and the read finds it. -/
theorem mosaicWordReadsBackItsLowByte : Obligations.MosaicWordReadsBackItsLowByte := by
  intro s i d e hi hidle
  simp only [decode_mosaicWord]
  have hread : mosaicRead (answeredState 0#32 (mosaicWrite i.toNat (d.extractLsb' 0 8) s)) i.toNat =
      some (d.extractLsb' 0 8) := mosaicRead_mosaicWrite_same _ hi
  refine ⟨_, _, exec_wrMosaic_of_idle _ hi hidle, exec_rdMosaic_of_written hi hidle hread,
    _, ?_, sampleWord_low8_toNat d⟩
  simp [answeredState]

/-- Settles O54: a read that is not refused only answers, and its answer is the response given. -/
theorem successfulReadsChangeNothing : Obligations.SuccessfulReadsChangeNothing := by
  intro i s t d hread h hresp
  rcases (exec_effect h).read_cases hread with ⟨rdata, rfl⟩ | herr
  · obtain rfl : rdata = d := by simpa [answeredState] using hresp
    rfl
  · rw [herr] at hresp
    simp at hresp

/-- Settles O7, by the next event; withFetchWord makes the word the next event. -/
theorem stepRunsTheDecodedTransaction : Obligations.StepRunsTheDecodedTransaction := by
  have hstep : ∀ (s : State) (t : Txn) (rest : List Event), s.events = .transaction t :: rest →
      step s = exec (decode t) { s with events := rest } := by
    intro s t rest h
    rw [step, nextEvent_cons h, dropEvent, h]
    rfl
  refine ⟨hstep, fun s nbits w hw _ => hstep _ _ s.events ?_⟩
  rw [State.withFetchWord, Nat.mod_eq_of_lt hw]

end Sys2Proof.Machine

/-! # The encoding and the decoder -/

namespace Sys2Proof

/-! ## The nine register offsets (R84) -/

section

variable (we : Bool) (d : Word)

@[simp] theorem decodeFields_idAddr :
    decodeFields we idAddr d = if we then .wrId else .rdId := rfl

@[simp] theorem decodeFields_ctrlAddr :
    decodeFields we ctrlAddr d =
      if we then .wrCtrl (d.getLsbD 0) (d.getLsbD 1) else .rdCtrl := rfl

@[simp] theorem decodeFields_statusAddr :
    decodeFields we statusAddr d = if we then .wrStatus else .rdStatus := rfl

@[simp] theorem decodeFields_widthAddr :
    decodeFields we widthAddr d =
      if we then .wrWidth (d.extractLsb' 0 16) else .rdWidth := rfl

@[simp] theorem decodeFields_heightAddr :
    decodeFields we heightAddr d =
      if we then .wrHeight (d.extractLsb' 0 16) else .rdHeight := rfl

@[simp] theorem decodeFields_layoutAddr :
    decodeFields we layoutAddr d =
      if we then .wrLayout (d.extractLsb' 0 8) else .rdLayout := rfl

@[simp] theorem decodeFields_irqenAddr :
    decodeFields we irqenAddr d =
      if we then .wrIrqen (d.getLsbD 0) (d.getLsbD 1) (d.getLsbD 2) else .rdIrqen := rfl

@[simp] theorem decodeFields_capacityAddr :
    decodeFields we capacityAddr d = if we then .wrCapacity else .rdCapacity := rfl

@[simp] theorem decodeFields_erraddrAddr :
    decodeFields we erraddrAddr d = if we then .wrErraddr else .rdErraddr := rfl

end

/-! ## Offsets by their parts (R61, R83) -/

/-- An offset is its region, its cell index and its low bits. -/
theorem addr_parts (a : Addr) : regionBits a ++ cellIndexOf a ++ lowBits a = a := by
  have hslot : regionBits a ++ cellIndexOf a = wordSlotOf a :=
    BitVec.extractLsb'_append_extractLsb'_eq_extractLsb' rfl
  rw [hslot]
  exact slotAddr_parts a

theorem eq_mosaicAddr {a : Addr} (hlow : lowBits a = 0#2) (hregion : regionBits a = 1#2) :
    a = mosaicAddr (cellIndexOf a) := by
  rw [mosaicAddr, ← hlow, ← hregion, addr_parts]

theorem eq_rgbAddr {a : Addr} (hlow : lowBits a = 0#2) (hregion : regionBits a = 2#2) :
    a = rgbAddr (cellIndexOf a) := by
  rw [rgbAddr, ← hlow, ← hregion, addr_parts]

/-- Every offset is misaligned, a register's, in one of the two windows, or unmapped: the steps of R83. -/
theorem addr_cases (a : Addr) :
    lowBits a ≠ 0#2 ∨ isRegisterAddr a = true ∨ (∃ i, a = mosaicAddr i) ∨
      (∃ i, a = rgbAddr i) ∨ isUnmappedAddr a = true := by
  by_cases hlow : lowBits a = 0#2
  · by_cases hmosaic : regionBits a = 1#2
    · exact .inr (.inr (.inl ⟨_, eq_mosaicAddr hlow hmosaic⟩))
    by_cases hrgb : regionBits a = 2#2
    · exact .inr (.inr (.inr (.inl ⟨_, eq_rgbAddr hlow hrgb⟩)))
    cases hreg : isRegisterAddr a with
    | true => exact .inr (.inl rfl)
    | false =>
      simp [isUnmappedAddr, inMosaicWindow, inRgbWindow, hlow, hreg, hmosaic, hrgb]
  · exact .inl hlow

theorem isRegisterAddr_iff (a : Addr) :
    isRegisterAddr a = true ↔ a = idAddr ∨ a = ctrlAddr ∨ a = statusAddr ∨ a = widthAddr ∨
      a = heightAddr ∨ a = layoutAddr ∨ a = irqenAddr ∨ a = capacityAddr ∨ a = erraddrAddr := by
  simp only [isRegisterAddr, Bool.or_eq_true, beq_iff_eq, or_assoc]

/-! ## Decoding an encoding -/

/-- Settles O1, by class: the encoder's offset selects the class, and its data word holds the operands. -/
theorem decodeOfEncodeIsIdentity : Obligations.DecodeOfEncodeIsIdentity := by
  intro i hwf
  cases i with
  | rdId | wrId | rdCtrl | rdStatus | wrStatus | rdWidth | rdHeight | rdLayout | rdIrqen
  | rdCapacity | wrCapacity | rdErraddr | wrErraddr => simp [encode]
  | wrCtrl start clear => cases start <;> cases clear <;> rfl
  | wrIrqen doneIe errIe accIe => cases doneIe <;> cases errIe <;> cases accIe <;> rfl
  | wrWidth | wrHeight | wrLayout => simp [encode]
  | rdMosaic | wrMosaic => simp [encode, decodeFields_mosaicAddr]
  | rdRgb | wrRgb => simp [encode, decodeFields_rgbAddr]
  | errMisaligned1 | errMisaligned2 | errMisaligned3 => simp [encode, decodeFields]
  | errUnmapped we addr => rw [encode, decode_packTxn, decodeFields_unmapped hwf]

/-! ## Encoding a decoding -/

/-- Masking the low `n` bits of a word leaves them below zeros. -/
theorem and_lowMask {h n : Nat} (d : BitVec (h + n)) :
    d &&& (0#h ++ BitVec.allOnes n) = 0#h ++ d.extractLsb' 0 n := by
  conv_lhs => rw [← BitVec.extractLsb'_append_extractLsb' (x := d)]
  rw [BitVec.and_append, BitVec.and_zero, BitVec.and_allOnes]

theorem and_low8Mask (d : Word) : d &&& 0xFF#32 = 0#24 ++ d.extractLsb' 0 8 :=
  and_lowMask (h := 24) (n := 8) d

theorem and_low16Mask (d : Word) : d &&& 0xFFFF#32 = 0#16 ++ d.extractLsb' 0 16 :=
  and_lowMask (h := 16) (n := 16) d

/-- The two data bits of a CTRL write (R82). -/
theorem and_ctrlMask (d : Word) :
    d &&& 3#32 = 0#30 ++ BitVec.ofBool (d.getLsbD 1) ++ BitVec.ofBool (d.getLsbD 0) := by
  apply BitVec.eq_of_getLsbD_eq
  intro k hk
  rw [show (3#32 : Word) = 0#30 ++ BitVec.allOnes 2 from by decide]
  simp only [BitVec.getLsbD_and, BitVec.getLsbD_append, BitVec.getLsbD_ofBool]
  rcases k with _ | _ | k <;> simp

/-- The three data bits of an IRQEN write (R82). -/
theorem and_irqenMask (d : Word) :
    d &&& 7#32 = 0#29 ++ BitVec.ofBool (d.getLsbD 2) ++ BitVec.ofBool (d.getLsbD 1) ++
      BitVec.ofBool (d.getLsbD 0) := by
  apply BitVec.eq_of_getLsbD_eq
  intro k hk
  rw [show (7#32 : Word) = 0#29 ++ BitVec.allOnes 3 from by decide]
  simp only [BitVec.getLsbD_and, BitVec.getLsbD_append, BitVec.getLsbD_ofBool]
  rcases k with _ | _ | _ | k <;> simp

/-- Masking a word keeps its direction and its offset, and masks its data (R82). -/
theorem packTxn_and_data (we : Bool) (a : Addr) (d m : Word) :
    packTxn we a d &&& packTxn true (BitVec.allOnes 24) m = packTxn we a (d &&& m) := by
  rw [packTxn_and, Bool.and_true, BitVec.and_allOnes]

/-- `i` is a transaction of the encoding, and the word `(we, a, d)` differs from its word in bits that it
ignores (R82, R86). -/
def IsWordOf (i : Instr) (we : Bool) (a : Addr) (d : Word) : Prop :=
  WellFormed i ∧ encode i = packTxn we a d &&& usedBits i

namespace IsWordOf

variable {i : Instr} {we : Bool} {a : Addr} {d : Word}

/-- A class whose data field is what the mask `m` leaves of the data word. -/
theorem of_data (m : Word) {e : Word} (hwf : WellFormed i)
    (hused : usedBits i = packTxn true (BitVec.allOnes 24) m) (hi : encode i = packTxn we a e)
    (hdata : d &&& m = e) : IsWordOf i we a d := by
  refine ⟨hwf, ?_⟩
  rw [hused, packTxn_and_data, hdata, hi]

/-- A class that ignores its data word. -/
theorem of_no_data (hwf : WellFormed i) (hused : usedBits i = packTxn true (BitVec.allOnes 24) 0)
    (hi : encode i = packTxn we a 0) : IsWordOf i we a d :=
  of_data 0 hwf hused hi BitVec.and_zero

theorem misaligned (h : lowBits a ≠ 0#2) : IsWordOf (decodeFields we a d) we a d := by
  rcases decodeFields_misaligned h we d with ⟨hi, hlow⟩ | ⟨hi, hlow⟩ | ⟨hi, hlow⟩ <;> rw [hi] <;>
    exact of_no_data rfl rfl (by rw [encode, ← hlow, slotAddr_parts])

theorem register (h : isRegisterAddr a = true) : IsWordOf (decodeFields we a d) we a d := by
  cases we with
  | false =>
    rcases (isRegisterAddr_iff a).mp h with
      rfl | rfl | rfl | rfl | rfl | rfl | rfl | rfl | rfl <;> exact of_no_data rfl rfl rfl
  | true =>
    rcases (isRegisterAddr_iff a).mp h with rfl | rfl | rfl | rfl | rfl | rfl | rfl | rfl | rfl
    · exact of_no_data rfl rfl rfl
    · exact of_data 3#32 rfl rfl rfl (and_ctrlMask d)
    · exact of_no_data rfl rfl rfl
    · exact of_data 0xFFFF#32 rfl rfl rfl (and_low16Mask d)
    · exact of_data 0xFFFF#32 rfl rfl rfl (and_low16Mask d)
    · exact of_data 0xFF#32 rfl rfl rfl (and_low8Mask d)
    · exact of_data 7#32 rfl rfl rfl (and_irqenMask d)
    · exact of_no_data rfl rfl rfl
    · exact of_no_data rfl rfl rfl

theorem mosaic (j : CellIndex) :
    IsWordOf (decodeFields we (mosaicAddr j) d) we (mosaicAddr j) d := by
  rw [decodeFields_mosaicAddr]
  cases we with
  | false => exact of_no_data rfl rfl rfl
  | true => exact of_data 0xFF#32 rfl rfl rfl (and_low8Mask d)

theorem rgb (j : CellIndex) : IsWordOf (decodeFields we (rgbAddr j) d) we (rgbAddr j) d := by
  rw [decodeFields_rgbAddr]
  cases we <;> exact of_no_data rfl rfl rfl

theorem unmapped (h : isUnmappedAddr a = true) : IsWordOf (decodeFields we a d) we a d := by
  rw [decodeFields_unmapped h]
  exact of_no_data h rfl rfl

/-- Every word is a word of its class, by the steps of R83. -/
theorem decoded (we : Bool) (a : Addr) (d : Word) : IsWordOf (decodeFields we a d) we a d := by
  rcases addr_cases a with hlow | hreg | ⟨j, rfl⟩ | ⟨j, rfl⟩ | hun
  · exact misaligned hlow
  · exact register hreg
  · exact mosaic j
  · exact rgb j
  · exact unmapped hun

end IsWordOf

/-- Settles O2: a word is packed from its fields, and these are the fields of a word of its class. -/
theorem everyWordIsItsEncodingUpToIgnoredBits :
    Obligations.EveryWordIsItsEncodingUpToIgnoredBits := by
  intro t
  have h := IsWordOf.decoded (txnWe t) (txnAddr t) (txnData t)
  rwa [IsWordOf, packTxn_fields] at h

/-! ## The opcode table (R85) -/

theorem rowMatches_iff (row : OpcodeRow) (t : Txn) :
    rowMatches row t = true ↔ t &&& row.mask = row.pattern := beq_iff_eq

/-- Some bit that both rows read has another value in each. -/
abbrev RowsDiffer (row row' : OpcodeRow) : Prop :=
  row.pattern &&& row'.mask ≠ row'.pattern &&& row.mask

/-- Rows that differ match no common word. -/
theorem RowsDiffer.not_both_match {row row' : OpcodeRow} (hne : RowsDiffer row row') {t : Txn}
    (h : rowMatches row t = true) : rowMatches row' t ≠ true := by
  intro h'
  rw [rowMatches_iff] at h h'
  apply hne
  rw [← h, ← h', BitVec.and_assoc, BitVec.and_assoc, BitVec.and_comm row.mask]

theorem classRows_pairwise_differ : classRows.Pairwise RowsDiffer := by decide

theorem classRows_match_unique {row row' : OpcodeRow} {t : Txn} (hrow : row ∈ classRows)
    (hrow' : row' ∈ classRows) (h : rowMatches row t = true) (h' : rowMatches row' t = true) :
    row = row' := by
  have hsymm : Std.Symm RowsDiffer := ⟨fun _ _ hne => hne.symm⟩
  by_contra hne
  exact (classRows_pairwise_differ.forall hrow hrow' hne).not_both_match h h'

/-! ### The three shapes of a row, by the fields it fixes (R84) -/

theorem misalignedRows_shape :
    ∀ row ∈ misalignedRows, row.mask = packTxn false 3#24 0 ∧
      ∃ low, low ≠ 0#2 ∧ row.pattern = packTxn false (slotAddr 0 low) 0 := by decide

theorem registerRows_shape :
    ∀ row ∈ registerRows, row.mask = packTxn true (BitVec.allOnes 24) 0 ∧
      isRegisterAddr (txnAddr row.pattern) = true ∧
      row.pattern = packTxn (txnWe row.pattern) (txnAddr row.pattern) 0 := by decide

theorem windowRows_shape :
    ∀ row ∈ windowRows, row.mask = packTxn true 0xC00003#24 0 ∧
      ∃ pw region, (region = 1#2 ∨ region = 2#2) ∧
        row.pattern = packTxn pw (region ++ 0#20 ++ 0#2) 0 := by decide

/-- The register rows cover the nine offsets, read and write. -/
theorem exists_registerRow (we : Bool) {a : Addr} (h : isRegisterAddr a = true) :
    ∃ row ∈ registerRows, row.pattern = packTxn we a 0 := by
  rcases (isRegisterAddr_iff a).mp h with rfl | rfl | rfl | rfl | rfl | rfl | rfl | rfl | rfl <;>
    cases we <;> decide

/-- A register row names the class at the direction and the offset that it fixes. -/
theorem registerRows_class (d : Word) :
    ∀ row ∈ registerRows,
      mnemonic (decodeFields (txnWe row.pattern) (txnAddr row.pattern) d) = row.mnemonic := by
  intro row hrow
  fin_cases hrow <;> rfl

/-- Bit strings of the same lengths are joined to the same string only if they are the same. -/
theorem append_eq_append_iff {n m : Nat} {x x' : BitVec n} {y y' : BitVec m} :
    x ++ y = x' ++ y' ↔ x = x' ∧ y = y' := by
  refine ⟨fun h => ⟨?_, ?_⟩, fun ⟨hx, hy⟩ => by rw [hx, hy]⟩
  · simpa only [BitVec.extractLsb'_append_eq_left] using congrArg (BitVec.extractLsb' m n) h
  · simpa only [BitVec.extractLsb'_append_eq_right] using congrArg (BitVec.extractLsb' 0 m) h

theorem and_lowBitsMask (a : Addr) : a &&& 3#24 = slotAddr 0 (lowBits a) :=
  and_lowMask (h := 22) (n := 2) a

theorem and_windowMask (a : Addr) : a &&& 0xC00003#24 = regionBits a ++ 0#20 ++ lowBits a := by
  have hmask : 0xC00003#24 = BitVec.allOnes 2 ++ 0#20 ++ BitVec.allOnes 2 := rfl
  conv_lhs => rw [← addr_parts a, hmask]
  rw [BitVec.and_append, BitVec.and_append, BitVec.and_zero, BitVec.and_allOnes,
    BitVec.and_allOnes]

section

variable {row : OpcodeRow} {we pw : Bool} {a pa : Addr} {d : Word}

/-- A row that reads no data matches a word by its direction and its offset. -/
theorem rowMatches_packTxn_iff {mw : Bool} {ma : Addr} (hmask : row.mask = packTxn mw ma 0)
    (hpattern : row.pattern = packTxn pw pa 0) :
    rowMatches row (packTxn we a d) = true ↔ (we && mw) = pw ∧ a &&& ma = pa := by
  rw [rowMatches_iff, hmask, hpattern, packTxn_and, packTxn_inj]
  simp

theorem rowMatches_misaligned_iff {low : BitVec 2} (hmask : row.mask = packTxn false 3#24 0)
    (hpattern : row.pattern = packTxn false (slotAddr 0 low) 0) :
    rowMatches row (packTxn we a d) = true ↔ lowBits a = low := by
  rw [rowMatches_packTxn_iff hmask hpattern, Bool.and_false, and_lowBitsMask, slotAddr,
    slotAddr, append_eq_append_iff, and_iff_right rfl, and_iff_right rfl]

theorem rowMatches_register_iff (hmask : row.mask = packTxn true (BitVec.allOnes 24) 0)
    (hpattern : row.pattern = packTxn pw pa 0) :
    rowMatches row (packTxn we a d) = true ↔ we = pw ∧ a = pa := by
  rw [rowMatches_packTxn_iff hmask hpattern, Bool.and_true, BitVec.and_allOnes]

theorem rowMatches_window_iff {region : BitVec 2} (hmask : row.mask = packTxn true 0xC00003#24 0)
    (hpattern : row.pattern = packTxn pw (region ++ 0#20 ++ 0#2) 0) :
    rowMatches row (packTxn we a d) = true ↔
      we = pw ∧ regionBits a = region ∧ lowBits a = 0#2 := by
  rw [rowMatches_packTxn_iff hmask hpattern, Bool.and_true, and_windowMask, append_eq_append_iff,
    append_eq_append_iff, and_iff_left rfl]

/-- No row of a class matches a word at an unmapped offset (R85, R225). -/
theorem rowMatches_unmapped (h : isUnmappedAddr a = true) (hrow : row ∈ classRows) :
    rowMatches row (packTxn we a d) = false := by
  simp only [isUnmappedAddr, inMosaicWindow, inRgbWindow, Bool.and_eq_true, beq_iff_eq,
    Bool.not_eq_true', beq_eq_false_iff_ne] at h
  obtain ⟨⟨⟨hlow, hregister⟩, hmosaic⟩, hrgb⟩ := h
  simp only [classRows, List.mem_append, or_assoc] at hrow
  rw [← Bool.not_eq_true]
  rcases hrow with hrow | hrow | hrow
  · obtain ⟨hmask, low, hne, hpattern⟩ := misalignedRows_shape row hrow
    rw [rowMatches_misaligned_iff hmask hpattern, hlow]
    exact hne.symm
  · obtain ⟨hmask, hpa, hpattern⟩ := registerRows_shape row hrow
    rw [rowMatches_register_iff hmask hpattern]
    rintro ⟨_, rfl⟩
    exact absurd hpa (by simp [hregister])
  · obtain ⟨hmask, pw, region, hregion, hpattern⟩ := windowRows_shape row hrow
    rw [rowMatches_window_iff hmask hpattern]
    rintro ⟨_, rfl, _⟩
    exact hregion.elim hmosaic hrgb

/-- A row of the table matches the word `(we, a, d)` and is the row of its class (R85). -/
def HasRow (we : Bool) (a : Addr) (d : Word) : Prop :=
  ∃ row ∈ classRows, rowMatches row (packTxn we a d) = true ∧
    mnemonic (decodeFields we a d) = row.mnemonic

namespace HasRow

theorem misaligned (h : lowBits a ≠ 0#2) : HasRow we a d := by
  rcases decodeFields_misaligned h we d with ⟨hi, hlow⟩ | ⟨hi, hlow⟩ | ⟨hi, hlow⟩ <;>
    rw [HasRow, hi]
  · exact ⟨misalignedRows[0], by simp [classRows, misalignedRows],
      (rowMatches_misaligned_iff rfl rfl).mpr hlow, rfl⟩
  · exact ⟨misalignedRows[1], by simp [classRows, misalignedRows],
      (rowMatches_misaligned_iff rfl rfl).mpr hlow, rfl⟩
  · exact ⟨misalignedRows[2], by simp [classRows, misalignedRows],
      (rowMatches_misaligned_iff rfl rfl).mpr hlow, rfl⟩

theorem register (h : isRegisterAddr a = true) : HasRow we a d := by
  obtain ⟨row, hrow, hpattern⟩ := exists_registerRow we h
  obtain ⟨hmask, _⟩ := registerRows_shape row hrow
  refine ⟨row, by simp [classRows, hrow],
    (rowMatches_register_iff hmask hpattern).mpr ⟨rfl, rfl⟩, ?_⟩
  simpa [hpattern] using registerRows_class d row hrow

theorem mosaic (j : CellIndex) : HasRow we (mosaicAddr j) d := by
  rw [HasRow, decodeFields_mosaicAddr]
  cases we with
  | false =>
    exact ⟨windowRows[0], by simp [classRows, windowRows],
      (rowMatches_window_iff rfl rfl).mpr ⟨rfl, regionBits_mosaicAddr j, lowBits_mosaicAddr j⟩, rfl⟩
  | true =>
    exact ⟨windowRows[1], by simp [classRows, windowRows],
      (rowMatches_window_iff rfl rfl).mpr ⟨rfl, regionBits_mosaicAddr j, lowBits_mosaicAddr j⟩, rfl⟩

theorem rgb (j : CellIndex) : HasRow we (rgbAddr j) d := by
  rw [HasRow, decodeFields_rgbAddr]
  cases we with
  | false =>
    exact ⟨windowRows[2], by simp [classRows, windowRows],
      (rowMatches_window_iff rfl rfl).mpr ⟨rfl, regionBits_rgbAddr j, lowBits_rgbAddr j⟩, rfl⟩
  | true =>
    exact ⟨windowRows[3], by simp [classRows, windowRows],
      (rowMatches_window_iff rfl rfl).mpr ⟨rfl, regionBits_rgbAddr j, lowBits_rgbAddr j⟩, rfl⟩

end HasRow

/-- Every word has a row, or none matches it and it is unmapped (R85). -/
theorem hasRow_or_unmapped (we : Bool) (a : Addr) (d : Word) :
    HasRow we a d ∨ isUnmappedAddr a = true := by
  rcases addr_cases a with hlow | hreg | ⟨j, rfl⟩ | ⟨j, rfl⟩ | hun
  · exact .inl (.misaligned hlow)
  · exact .inl (.register hreg)
  · exact .inl (.mosaic j)
  · exact .inl (.rgb j)
  · exact .inr hun

end

/-- Settles O3: no word matches two rows, so a row that matches is the row of the word's class. -/
theorem opcodeTableClassifiesEveryWord : Obligations.OpcodeTableClassifiesEveryWord := by
  intro t
  refine ⟨fun row hrow row' hrow' => classRows_match_unique hrow hrow', ?_,
    (rowMatches_iff _ _).mpr BitVec.and_zero, ?_⟩ <;> rw [← packTxn_fields t, decode_packTxn]
  · intro row hrow hmatch
    rcases hasRow_or_unmapped (txnWe t) (txnAddr t) (txnData t) with
      ⟨row', hrow', hmatch', hclass⟩ | hun
    · rw [hclass, classRows_match_unique hrow hrow' hmatch hmatch']
    · simp [rowMatches_unmapped hun hrow] at hmatch
  · intro hnone
    rcases hasRow_or_unmapped (txnWe t) (txnAddr t) (txnData t) with ⟨row, hrow, hmatch, _⟩ | hun
    · simp [hnone row hrow] at hmatch
    · rw [decodeFields_unmapped hun]
      rfl

/-! ## Printed words -/

/-- Settles O4: the decoder computes the class of each printed word. -/
theorem printedWordsDecode : Obligations.PrintedWordsDecode := by
  unfold Obligations.PrintedWordsDecode
  decide

end Sys2Proof

/-! # The answer of a transaction -/

namespace Sys2Proof.Machine

open Sys2Proof Host

/-! ## The responses given (R81) -/

@[simp] theorem recordAccessError_responses (cause : AccCause) (we : Bool) (addr : Addr) (s : State) :
    (recordAccessError cause we addr s).responses = s.responses := by
  rw [recordAccessError_frame]

@[simp] theorem afterClear_responses (clear : Bool) (s : State) :
    (afterClear clear s).responses = s.responses := by
  cases clear <;> rfl

@[simp] theorem doStart_responses (s : State) : (doStart s).responses = s.responses := by
  rcases doStart_cases s with ⟨_, he⟩ | ⟨_, he⟩ <;> rw [he]

/-- A transaction gives one response, which carries data only if it is a read that is not refused. -/
theorem TransactionEffect.response {i : Instr} {s t : State} (h : TransactionEffect i s t) :
    ∃ r : Response, t.responses = s.responses ++ [r] ∧
      (r.resp = .error → r.rdata = 0#32) ∧ (isWrite i = true → r.rdata = 0#32) := by
  cases h with
  | answered rdata hread =>
    exact ⟨⟨.okay, rdata⟩, rfl, nofun, fun hwrite => by simp [hread] at hwrite⟩
  | refused => exact ⟨⟨.error, 0#32⟩, by simp, fun _ => rfl, fun _ => rfl⟩
  | controlled | started | configured | enabled | sampled =>
    exact ⟨⟨.okay, 0#32⟩, by simp, fun _ => rfl, fun _ => rfl⟩

/-- A START from idle is answered OKAY, whether its configuration is accepted or rejected (R174, R176). -/
theorem exec_start_of_idle {s : State} (clear : Bool) (hidle : s.phase = .idle) :
    exec (.wrCtrl true clear) s = .next (respond .okay 0 (doStart (afterClear clear s))) := by
  rcases execWrCtrl_cases true clear s with ⟨_, hbusy, _⟩ | ⟨_, he⟩
  · exact absurd hidle ((busy_eq_true_iff s).mp hbusy)
  · exact he

/-- Settles O51, by the effects of a transaction and the answer to a START from idle. -/
theorem everyTransactionGetsOneResponse : Obligations.EveryTransactionGetsOneResponse := by
  intro i s t h
  obtain ⟨r, hr, herror, hwrite⟩ := (exec_effect h).response
  refine ⟨r, hr, herror, hwrite, ?_⟩
  rintro hidle ⟨clear, rfl⟩
  rw [exec_start_of_idle clear hidle] at h
  obtain rfl := Outcome.next.inj h
  obtain rfl : ⟨.okay, 0⟩ = r := by simpa using hr
  rfl

/-! ## No refusal (R86) -/

section

variable {s : State} {r : Refusal}

theorem writeFrozen_ne_refused {addr : Addr} {store : State → State} :
    writeFrozen addr store s ≠ .refused r := by
  rcases writeFrozen_cases addr store s with ⟨_, he⟩ | ⟨_, he⟩ <;> rw [he] <;> exact nofun

theorem windowAccess_ne_refused {we : Bool} {addr : Addr} {index : CellIndex}
    {effect : State → Outcome State Fault Refusal} (heffect : effect s ≠ .refused r) :
    windowAccess we addr index effect s ≠ .refused r := by
  rcases windowAccess_cases we addr index effect s with ⟨_, he⟩ | ⟨_, _, he⟩ | ⟨_, _, he⟩ <;>
    rw [he]
  · exact nofun
  · exact nofun
  · exact heffect

theorem execRdMosaic_ne_refused {index : CellIndex} : execRdMosaic index s ≠ .refused r :=
  windowAccess_ne_refused (by split <;> exact nofun)

theorem execWrMosaic_ne_refused {index : CellIndex} {sample : Byte} :
    execWrMosaic index sample s ≠ .refused r :=
  windowAccess_ne_refused nofun

theorem execRdRgb_ne_refused {index : CellIndex} : execRdRgb index s ≠ .refused r :=
  windowAccess_ne_refused (by split <;> exact nofun)

theorem execWrCtrl_ne_refused {start clear : Bool} : execWrCtrl start clear s ≠ .refused r := by
  rcases execWrCtrl_cases start clear s with ⟨_, _, he⟩ | ⟨_, he⟩ <;> rw [he] <;> exact nofun

/-- Every class has its meaning (R86). -/
theorem exec_ne_refused (i : Instr) : exec i s ≠ .refused r := by
  cases i with
  | rdId | rdCtrl | rdStatus | rdWidth | rdHeight | rdLayout | rdIrqen | rdCapacity | rdErraddr
  | wrIrqen | wrId | wrStatus | wrCapacity | wrErraddr | wrRgb | errMisaligned1 | errMisaligned2
  | errMisaligned3 | errUnmapped => exact nofun
  | wrCtrl => exact execWrCtrl_ne_refused
  | wrWidth | wrHeight | wrLayout =>
    simp only [exec, execWrWidth, execWrHeight, execWrLayout]
    exact writeFrozen_ne_refused
  | rdMosaic => exact execRdMosaic_ne_refused
  | wrMosaic => exact execWrMosaic_ne_refused
  | rdRgb => exact execRdRgb_ne_refused

theorem storePixel_ne_refused {i : Nat} {p : Pixel} {next : State → State} :
    storePixel i p next s ≠ .refused r := by
  rcases storePixel_cases i p next s with ⟨_, he⟩ | ⟨_, he⟩ <;> rw [he] <;> exact nofun

theorem pixelStep_ne_refused : pixelStep s ≠ .refused r := by
  by_cases hin : isInterior s s.sy.toNat s.sx.toNat = true
  · rcases pixelStep_cases hin with ⟨_, he⟩ | ⟨p, _, he⟩ <;> rw [he]
    · exact nofun
    · exact storePixel_ne_refused
  · rw [pixelStep, if_neg hin]
    exact nofun

theorem engineTurn_ne_refused : engineTurn s ≠ .refused r := by
  rw [engineTurn]
  cases s.phase with
  | idle => exact nofun
  | clear => exact storePixel_ne_refused
  | scan => exact pixelStep_ne_refused

end

/-- Settles O57, by the kind of the next event. -/
theorem noStepIsRefused : Obligations.NoStepIsRefused := by
  intro s r
  rcases step_cases s with ⟨w, _, he⟩ | ⟨_, he⟩ | ⟨_, he⟩ <;> rw [he]
  · exact exec_ne_refused (decode w)
  · exact engineTurn_ne_refused
  · exact nofun

end Sys2Proof.Machine

/-! # The role table and the channel-source table -/

namespace Sys2Proof.Machine

open Sys2Proof

/-! ## Parities (R10) -/

theorem parity_congr {n m : Nat} (h : n % 2 = m % 2) : parity n = parity m := by
  simp only [parity, Nat.testBit_zero, h]

/-- Neighbouring coordinates have different parities. -/
theorem parity_of_adjacent {n m : Nat} (hn : 1 ≤ n) (hm : m = n - 1 ∨ m = n + 1) :
    parity m = !parity n := by
  have hmod : m % 2 = 1 ↔ ¬ n % 2 = 1 := by omega
  simp only [parity, Nat.testBit_zero, hmod, decide_not]

/-! ## The role of a neighbour (R103, R104)

A tile has two rows and two columns, so a pixel's role fixes the role of the other cell in its tile row and
of the other cell in its tile column, whatever the layout. -/

/-- The role of the other cell in the tile row. -/
def rowNeighbour : Role → Role
  | .r => .gr
  | .gr => .r
  | .gb => .b
  | .b => .gb

/-- The role of the other cell in the tile column. -/
def columnNeighbour : Role → Role
  | .r => .gb
  | .gr => .b
  | .gb => .r
  | .b => .gr

theorem roleTable_not_px : ∀ (layout : BitVec 2) (py px : Bool),
    roleTable layout py (!px) = rowNeighbour (roleTable layout py px) := by decide

theorem roleTable_not_py : ∀ (layout : BitVec 2) (py px : Bool),
    roleTable layout (!py) px = columnNeighbour (roleTable layout py px) := by decide

/-- The cell diagonal to one of a role. -/
theorem roleTable_not_not (layout : BitVec 2) (py px : Bool) :
    roleTable layout (!py) (!px) = columnNeighbour (rowNeighbour (roleTable layout py px)) := by
  rw [roleTable_not_py, roleTable_not_px]

section

variable {layout : BitVec 8} {y x y' x' : Nat}

/-- The role depends on the layout and the parities alone (R104). -/
theorem roleAt_congr (hy : y' % 2 = y % 2) (hx : x' % 2 = x % 2) :
    roleAt layout y' x' = roleAt layout y x := by
  unfold roleAt
  rw [parity_congr hy, parity_congr hx]

theorem roleAt_rowNeighbour (hx : 1 ≤ x) (h : x' = x - 1 ∨ x' = x + 1) :
    roleAt layout y x' = rowNeighbour (roleAt layout y x) := by
  unfold roleAt
  rw [parity_of_adjacent hx h, roleTable_not_px]

theorem roleAt_columnNeighbour (hy : 1 ≤ y) (h : y' = y - 1 ∨ y' = y + 1) :
    roleAt layout y' x = columnNeighbour (roleAt layout y x) := by
  unfold roleAt
  rw [parity_of_adjacent hy h, roleTable_not_py]

/-- The colours of the eight neighbours of a pixel of a given role: the four diagonal ones, N and S, W and E
(R104). -/
theorem colourAt_neighbours (hy : 1 ≤ y) (hx : 1 ≤ x) {role : Role} (hrole : roleAt layout y x = role) :
    (∀ y' x', (y' = y - 1 ∨ y' = y + 1) → (x' = x - 1 ∨ x' = x + 1) →
      colourAt layout y' x' = nativeColour (columnNeighbour (rowNeighbour role))) ∧
    colourAt layout (y - 1) x = nativeColour (columnNeighbour role) ∧
    colourAt layout (y + 1) x = nativeColour (columnNeighbour role) ∧
    colourAt layout y (x - 1) = nativeColour (rowNeighbour role) ∧
    colourAt layout y (x + 1) = nativeColour (rowNeighbour role) := by
  subst hrole
  simp only [colourAt]
  refine ⟨fun y' x' hy' hx' => ?_, ?_, ?_, ?_, ?_⟩
  · rw [roleAt_columnNeighbour hy hy', roleAt_rowNeighbour hx hx']
  · rw [roleAt_columnNeighbour hy (.inl rfl)]
  · rw [roleAt_columnNeighbour hy (.inr rfl)]
  · rw [roleAt_rowNeighbour hx (.inl rfl)]
  · rw [roleAt_rowNeighbour hx (.inr rfl)]

end

/-- Settles O15: the neighbours' roles are functions of the pixel's role. -/
theorem roleFixesTheNeighbourColours : Obligations.RoleFixesTheNeighbourColours := by
  intro layout y x hy hx
  exact ⟨fun _ _ => roleAt_congr, colourAt_neighbours hy hx, colourAt_neighbours hy hx,
    colourAt_neighbours hy hx, colourAt_neighbours hy hx⟩

/-! ## The tile (R102, R103) -/

/-- Settles O13: the ROM's sixteen entries. -/
theorem roleTableIsAsPrinted : Obligations.RoleTableIsAsPrinted := by
  unfold Obligations.RoleTableIsAsPrinted
  decide

theorem exists_cell_of_role (layout : BitVec 2) (role : Role) :
    ∃ py px : Bool, roleTable layout py px = role := by
  revert layout
  cases role <;> decide

/-- Different cells of a tile have different roles. -/
theorem roleTable_injective : ∀ (layout : BitVec 2) {py px qy qx : Bool},
    roleTable layout qy qx = roleTable layout py px → qy = py ∧ qx = px := by decide

/-- The R-cell lies on the even diagonal in RGGB and BGGR alone. -/
theorem parities_eq_iff_of_roleTable_eq_r : ∀ (layout : BitVec 2) (py px : Bool),
    roleTable layout py px = .r → (py = px ↔ layout = 0#2 ∨ layout = 1#2) := by decide

/-- Settles O14, by the injectivity of the table on a tile and the role of the diagonal cell. -/
theorem everyTileHasEachRoleOnce : Obligations.EveryTileHasEachRoleOnce := by
  intro layout
  refine ⟨fun role => ?_, fun py px => ?_, fun py px => ?_,
    parities_eq_iff_of_roleTable_eq_r layout⟩
  · obtain ⟨py, px, rfl⟩ := exists_cell_of_role layout role
    exact ⟨py, px, rfl, fun _ _ => roleTable_injective layout⟩
  all_goals
    rw [roleTable_not_not]
    cases roleTable layout py px <;> decide

/-! ## Channel sources (R107, R108) -/

/-- Settles O16: the channel-source table row by row. -/
theorem eachRoleTakesItsChannelsFromTheirSources :
    Obligations.EachRoleTakesItsChannelsFromTheirSources :=
  fun _ => ⟨rfl, rfl, rfl, rfl⟩

/-- The native channel of a selected pixel is the window's centre (R108). -/
theorem channelOf_selectPixel_native (role : Role) (win : Window) :
    channelOf (selectPixel role win) (nativeColour role) = win.c := by
  cases role <;> rfl

/-- Settles O17: the native channel comes from CEN, and CEN is the sample at the pixel. -/
theorem nativeChannelIsTheRawSample : Obligations.NativeChannelIsTheRawSample := by
  constructor
  · intro role
    cases role <;> decide
  · intro s y x p hp
    obtain ⟨win, hwin, rfl⟩ := Option.map_eq_some_iff.mp hp
    obtain ⟨-, -, -, -, hc, -⟩ := (fetchWindow_eq_some_iff s y x win).mp hwin
    rw [colourAt, channelOf_selectPixel_native]
    exact hc

/-! ## Exchanging red and blue (R109) -/

theorem selectPixel_swapRole (role : Role) (win : Window) :
    selectPixel (swapRole role) win = swapRedBlue (selectPixel role win) := by
  cases role <;> rfl

theorem roleTable_swapped_layouts : ∀ py px : Bool,
    roleTable 1#2 py px = swapRole (roleTable 0#2 py px) ∧
      roleTable 3#2 py px = swapRole (roleTable 2#2 py px) := by decide

theorem roleAt_swapped_layouts (y x : Nat) :
    roleAt 1#8 y x = swapRole (roleAt 0#8 y x) ∧ roleAt 3#8 y x = swapRole (roleAt 2#8 y x) :=
  roleTable_swapped_layouts (parity y) (parity x)

/-- A layout that swaps the role of a pixel swaps its image cell; the black border is its own swap. -/
theorem imageCell_of_swapRole (s : State) {layout layout' : BitVec 8} {y x : Nat}
    (hrole : roleAt layout' y x = swapRole (roleAt layout y x)) :
    imageCell { s with layoutR := layout' } y x =
      (imageCell { s with layoutR := layout } y x).map swapRedBlue := by
  have hselect : selectPixel (roleAt layout' y x) = swapRedBlue ∘ selectPixel (roleAt layout y x) := by
    rw [hrole]
    exact funext (selectPixel_swapRole _)
  have hin (l : BitVec 8) : isInterior { s with layoutR := l } y x = isInterior s y x :=
    isInterior_congr rfl rfl y x
  have hwindow (l : BitVec 8) : fetchWindow { s with layoutR := l } y x = fetchWindow s y x :=
    fetchWindow_congr rfl rfl rfl y x
  simp only [imageCell, hin]
  cases isInterior s y x with
  | false => rfl
  | true => simp only [if_true, pixelAt, hwindow, hselect, Option.map_map]

/-- Settles O18: the swap of the roles carries over from the tables to the image. -/
theorem swappedLayoutsSwapRedAndBlue : Obligations.SwappedLayoutsSwapRedAndBlue := by
  refine ⟨selectPixel_swapRole, roleTable_swapped_layouts, fun s y x => ?_⟩
  obtain ⟨hrggb, hgrbg⟩ := roleAt_swapped_layouts y x
  exact ⟨imageCell_of_swapRole s hrggb, imageCell_of_swapRole s hgrbg⟩

end Sys2Proof.Machine

/-! # The neighborhood sampler -/

namespace Sys2Proof.Machine

open Sys2Proof Host

/-! ## The averages -/

/-- Settles O19, by the exact values of the two averages. -/
theorem averagesAreExactFloors : Obligations.AveragesAreExactFloors := fun _ =>
  ⟨average4_toNat _ _ _ _, average4_toNat _ _ _ _, average2_toNat _ _, average2_toNat _ _, rfl⟩

/-! ## Where the window lies (R120, R122) -/

/-- States of equal WIDTH whose MOSAIC agrees inside the image have the same samples there (R120). -/
theorem sampleAt_eq_of_image_eq {s s' : State} (hw : s'.widthR = s.widthR)
    (hcells : ∀ i < imagePixels s, mosaicRead s' i = mosaicRead s i) {y x : Nat}
    (hy : y < s.heightR.toNat) (hx : x < s.widthR.toNat) : sampleAt s' y x = sampleAt s y x := by
  have hindex : pixelIndex s' y x = pixelIndex s y x := by rw [pixelIndex, hw, pixelIndex]
  rw [sampleAt, hindex, hcells _ (pixelIndex_lt hy hx), sampleAt]

/-- The window fetch of an interior pixel reads no cell outside the image (R122). -/
theorem fetchWindow_eq_of_image_eq {s s' : State} (hw : s'.widthR = s.widthR)
    (hcells : ∀ i < imagePixels s, mosaicRead s' i = mosaicRead s i) {y x : Nat}
    (hy : y + 2 ≤ s.heightR.toNat) (hx : x + 2 ≤ s.widthR.toNat) :
    fetchWindow s' y x = fetchWindow s y x := by
  unfold fetchWindow
  simp (disch := omega) only [sampleAt_eq_of_image_eq hw hcells]

/-- Settles O20: all nine samples lie inside the image. -/
theorem windowStaysInsideTheImage : Obligations.WindowStaysInsideTheImage := by
  intro s y x hy1 hyH hx1 hxW
  refine ⟨fetchWindow_eq_some_iff s y x, fun s' hw hcells => ?_, fun dy hdy dx hdx => ?_⟩
  · have hwindow := fetchWindow_eq_of_image_eq hw hcells hyH hxW
    exact ⟨hwindow, fun hl => by rw [pixelAt, hwindow, hl, pixelAt]⟩
  · have hy : y - 1 + dy < s.heightR.toNat := by omega
    have hx : x - 1 + dx < s.widthR.toNat := by omega
    exact ⟨hy, hx, pixelIndex_lt hy hx⟩

/-! ## Unwritten samples (R130) -/

/-- There is a window exactly when none of its nine samples is missing (R121). -/
theorem exists_fetchWindow_iff (s : State) (y x : Nat) :
    (∃ win, fetchWindow s y x = some win) ↔
      ∀ y' ∈ [y - 1, y, y + 1], ∀ x' ∈ [x - 1, x, x + 1], ∃ v, sampleAt s y' x' = some v := by
  simp only [fetchWindow_eq_some_iff, List.forall_mem_cons, List.not_mem_nil,
    IsEmpty.forall_iff, implies_true, and_true]
  constructor
  · rintro ⟨win, hnw, hn, hne, hw, hc, he, hsw, hs, hse⟩
    exact ⟨⟨⟨_, hnw⟩, ⟨_, hn⟩, ⟨_, hne⟩⟩, ⟨⟨_, hw⟩, ⟨_, hc⟩, ⟨_, he⟩⟩,
      ⟨⟨_, hsw⟩, ⟨_, hs⟩, ⟨_, hse⟩⟩⟩
  · rintro ⟨⟨⟨nw, hnw⟩, ⟨n, hn⟩, ⟨ne, hne⟩⟩, ⟨⟨w, hw⟩, ⟨c, hc⟩, ⟨e, he⟩⟩,
      ⟨sw, hsw⟩, ⟨so, hs⟩, ⟨se, hse⟩⟩
    exact ⟨⟨nw, n, ne, w, c, e, sw, so, se⟩, hnw, hn, hne, hw, hc, he, hsw, hs, hse⟩

/-- A coordinate and its two neighbours, counted from the first of them. -/
theorem mem_neighbours_iff {n k : Nat} (hn : 1 ≤ n) :
    k ∈ [n - 1, n, n + 1] ↔ ∃ d < 3, k = n - 1 + d := by
  simp only [List.mem_cons, List.not_mem_nil, or_false]
  constructor
  · intro hk
    exact ⟨k - (n - 1), by omega, by omega⟩
  · rintro ⟨d, hd, rfl⟩
    omega

/-- A pixel has no value exactly when one of the nine cells of its window is unwritten, whatever its
role (R130). -/
theorem pixelAt_eq_none_iff {s : State} {y x : Nat} (hy : 1 ≤ y) (hx : 1 ≤ x) :
    pixelAt s y x = none ↔ WindowHasUnwritten s y x := by
  rw [pixelAt, Option.map_eq_none_iff, ← not_iff_not, ← ne_eq, Option.ne_none_iff_exists',
    exists_fetchWindow_iff]
  simp only [mem_neighbours_iff hy, mem_neighbours_iff hx, ← Option.ne_none_iff_exists']
  constructor
  · rintro hall ⟨dy, hdy, dx, hdx, hnone⟩
    exact hall _ ⟨dy, hdy, rfl⟩ _ ⟨dx, hdx, rfl⟩ hnone
  · rintro hall _ ⟨dy, hdy, rfl⟩ _ ⟨dx, hdx, rfl⟩ hnone
    exact hall ⟨dy, hdy, dx, hdx, hnone⟩

theorem storePixel_ne_unwrittenSample {i : Nat} {p : Pixel} {next : State → State} {s : State} :
    storePixel i p next s ≠ .fault .unwrittenSample := by
  rcases storePixel_cases i p next s with ⟨_, he⟩ | ⟨_, he⟩ <;> rw [he] <;> exact nofun

/-- A turn of the ENGINE in the scan is a PIXEL_STEP (R140). -/
theorem engineTurn_of_scan {s : State} (hphase : s.phase = .scan) : engineTurn s = pixelStep s := by
  rw [engineTurn, hphase]

/-- Settles O24: the pixel's value is all that a PIXEL_STEP at an interior pixel asks for. -/
theorem pixelStepFaultsExactlyOnUnwrittenSample :
    Obligations.PixelStepFaultsExactlyOnUnwrittenSample := by
  intro s ⟨_, _, _, _, _, _, hscan⟩ hphase
  obtain ⟨hin, _⟩ := hscan hphase
  obtain ⟨hy, _, hx, _⟩ := (isInterior_iff _ _ _).mp hin
  rw [engineTurn_of_scan hphase, ← pixelAt_eq_none_iff hy hx]
  rcases pixelStep_cases hin with ⟨hnone, he⟩ | ⟨p, hp, he⟩ <;> rw [he]
  · exact iff_of_true rfl hnone
  · exact iff_of_false storePixel_ne_unwrittenSample (by simp [hp])

/-! ## What an operation in progress leaves alone (R258) -/

/-- `t` holds what the image of an operation is a function of, as `s` does (R153). -/
structure SameInputs (s t : State) : Prop where
  memPixels : t.memPixels = s.memPixels
  widthR : t.widthR = s.widthR
  heightR : t.heightR = s.heightR
  layoutR : t.layoutR = s.layoutR
  mosaic : t.mosaic = s.mosaic

theorem EngineFrame.sameInputs {s t : State} (h : EngineFrame s t) : SameInputs s t :=
  ⟨h.memPixels, h.widthR, h.heightR, h.layoutR, h.mosaic⟩

theorem SameInputs.of_dropEvent {s t : State} (h : SameInputs (dropEvent s) t) : SameInputs s t :=
  ⟨h.memPixels, h.widthR, h.heightR, h.layoutR, h.mosaic⟩

theorem SameInputs.mosaicLoaded {s t : State} (h : SameInputs s t) (hloaded : MosaicLoaded t) :
    MosaicLoaded s := by
  intro i hi
  rw [← mosaicRead_congr h.memPixels h.mosaic]
  exact hloaded i (by rwa [imagePixels, h.widthR, h.heightR])

theorem afterClear_sameInputs (clear : Bool) (s : State) : SameInputs s (afterClear clear s) := by
  cases clear <;> constructor <;> rfl

/-- A transaction that finds the block busy leaves the inputs of the operation (R258). -/
theorem TransactionEffect.sameInputs {i : Instr} {s t : State} (h : TransactionEffect i s t)
    (hbusy : busy s = true) : SameInputs s t := by
  cases h with
  | refused => rw [recordAccessError_frame]; constructor <;> rfl
  | controlled clear _ => cases clear <;> constructor <;> rfl
  | answered | enabled => constructor <;> rfl
  | started _ _ hidle | configured _ _ _ _ hidle | sampled _ _ _ _ hidle => simp [hbusy] at hidle

theorem step_sameInputs {s t : State} (hbusy : busy s = true) (hreset : nextEvent s ≠ .reset)
    (h : step s = .next t) : SameInputs s t := by
  rcases step_next_cases h with ⟨_, _, heff⟩ | ⟨_, heng⟩ | ⟨hev, _⟩
  · exact (heff.sameInputs hbusy).of_dropEvent
  · exact (engineTurn_frame heng).sameInputs.of_dropEvent
  · exact absurd hev hreset

/-- A START of a valid configuration from idle begins an operation on the inputs it finds (R176). -/
theorem exec_start_of_valid {s t : State} {clear : Bool} (hidle : s.phase = .idle)
    (hvalid : ConfigValid s) (h : exec (.wrCtrl true clear) s = .next t) :
    t.phase = .clear ∧ SameInputs s t := by
  rw [exec_start_of_idle clear hidle] at h
  obtain rfl := Outcome.next.inj h
  have hcheck : configCheck (afterClear clear s) = .none := by
    rw [configCheck_afterClear]
    exact (configCheck_eq_none_iff s).mpr hvalid
  rcases doStart_cases (afterClear clear s) with ⟨_, he⟩ | ⟨hne, _⟩
  · obtain ⟨hmem, hw, hh, hl, hcells⟩ := afterClear_sameInputs clear s
    rw [he]
    exact ⟨rfl, hmem, hw, hh, hl, hcells⟩
  · exact absurd hcheck hne

/-! ## A run of an operation, step by step -/

/-- A transaction does not touch the events to come. -/
theorem TransactionEffect.events {i : Instr} {s t : State} (h : TransactionEffect i s t) :
    t.events = s.events := by
  cases h with
  | refused => rw [recordAccessError_frame]; rfl
  | controlled clear _ => cases clear <;> rfl
  | started clear _ _ =>
    rcases doStart_cases (afterClear clear s) with ⟨_, he⟩ | ⟨_, he⟩ <;> rw [he] <;>
      cases clear <;> rfl
  | answered | configured | enabled | sampled => rfl

/-- Each step takes one event. -/
theorem step_events {s t : State} (h : step s = .next t) : t.events = s.events.tail := by
  rcases step_next_cases h with ⟨_, _, heff⟩ | ⟨_, heng⟩ | ⟨_, rfl⟩
  · exact heff.events
  · exact (engineTurn_frame heng).events
  · rfl

/-- A run of at least one step to the end of the operation makes that step and goes on from there. -/
theorem finishesAfter_succ {n : Nat} {s t : State} (h : FinishesAfter (n + 1) s t) :
    ∃ u, step s = .next u ∧ FinishesAfter n u t := by
  obtain ⟨hreset, hbefore, hlast, hidle⟩ := h
  cases hs : step s with
  | next u =>
    refine ⟨u, rfl, fun hmem => hreset ?_, fun k hk => ?_, ?_, hidle⟩
    · rw [step_events hs] at hmem
      exact List.mem_of_mem_tail hmem
    · rw [← runSteps_succ_next hs]
      exact hbefore (k + 1) (Nat.succ_lt_succ hk)
    · rwa [← runSteps_succ_next hs]
  | fault f =>
    rw [runSteps_succ_fault hs] at hlast
    exact absurd hlast nofun
  | refused r => exact absurd hs (noStepIsRefused s r)

/-! ## A finished scan (R130) -/

/-- CLEAR_STEP does not end an operation that has a scan (R142). -/
theorem nextCell_phase_ne_idle {s : State} (hphase : s.phase = .clear) (hw : 3 ≤ s.widthR.toNat)
    (hh : 3 ≤ s.heightR.toNat) : (nextCell s).phase ≠ .idle := by
  rcases nextCell_cases s with ⟨_, he⟩ | ⟨_, he⟩ <;> rw [he]
  · simp [hphase]
  · rcases handOver_cases { s with cidx := s.cidx + 1 } with ⟨_, _, he'⟩ | ⟨hsmall, _⟩
    · rw [he']
      exact nofun
    · exact absurd hsmall (by simp only; omega)

/-- Where the scan has been, each interior pixel has its value (R130, R150). -/
theorem pixelAt_ne_none_of_scanned {s : State} (h : ScanOk s) (hphase : s.phase = .scan) {y x : Nat}
    (hin : isInterior s y x = true) (hscanned : isScanned s y x = true) : pixelAt s y x ≠ none := by
  obtain ⟨_, hcells⟩ := h hphase
  obtain ⟨_, hyH, _, hxW⟩ := (isInterior_iff s y x).mp hin
  obtain ⟨_, hsome⟩ := hcells y (by omega) x (by omega)
  rw [partialCell, if_pos hscanned, imageCell, if_pos hin] at hsome
  exact Option.isSome_iff_ne_none.mp hsome

/-- The PIXEL_STEP after which Advance ends the scan is at the last interior pixel, and every other one has been
scanned (R148). -/
theorem isScanned_or_current_of_advance_idle {s : State} (hphase : s.phase = .scan)
    (hend : (advance s).phase = .idle) {y x : Nat} (hin : isInterior s y x = true) :
    isScanned s y x = true ∨ (y = s.sy.toNat ∧ x = s.sx.toNat) := by
  obtain ⟨_, hyH, _, hxW⟩ := (isInterior_iff s y x).mp hin
  rw [isScanned_iff]
  rcases advance_cases s with ⟨_, he⟩ | ⟨_, _, he⟩ | ⟨hx, hy, _⟩
  · simp [he, hphase] at hend
  · simp [he, hphase] at hend
  · omega

/-- The ENGINE's turn that ends an operation with a scan leaves no interior pixel without its value (R130). -/
theorem pixelAt_ne_none_of_engine_finishes {s t : State} (hinv : BlockInv s) (hbusy : busy s = true)
    (hw : 3 ≤ s.widthR.toNat) (hh : 3 ≤ s.heightR.toNat) (h : engineTurn s = .next t)
    (hidle : t.phase = .idle) {y x : Nat} (hin : isInterior s y x = true) :
    pixelAt s y x ≠ none := by
  have ⟨_, _, _, _, _, _, hscan⟩ := hinv
  rcases engineTurn_next_cases h with ⟨hphase, _⟩ | ⟨hphase, _, rfl⟩ | ⟨hphase, _, _, p, hp, rfl⟩
  · exact absurd hphase ((busy_eq_true_iff s).mp hbusy)
  · exact absurd hidle (nextCell_phase_ne_idle hphase hw hh)
  · rcases isScanned_or_current_of_advance_idle
      (s := rgbWrite (pixelIndex s s.sy.toNat s.sx.toNat) p s) hphase hidle hin with
      hscanned | ⟨rfl, rfl⟩
    · exact pixelAt_ne_none_of_scanned hscan hphase hin hscanned
    · simp [hp]

/-- Every coordinate of a side of at least three is at most one away from an interior one. -/
theorem exists_interior_neighbour {n k : Nat} (hn : 3 ≤ n) (hk : k < n) :
    ∃ c, 1 ≤ c ∧ c + 2 ≤ n ∧ ∃ d < 3, k = c - 1 + d :=
  ⟨max 1 (min k (n - 2)), by omega, by omega, k + 1 - max 1 (min k (n - 2)), by omega, by omega⟩

/-- The windows of the interior pixels cover the image, so if each has its value every sample was written. -/
theorem mosaicLoaded_of_pixels {s : State} (hw : 3 ≤ s.widthR.toNat) (hh : 3 ≤ s.heightR.toNat)
    (hpixels : ∀ y x, isInterior s y x = true → pixelAt s y x ≠ none) : MosaicLoaded s := by
  intro i hi
  obtain ⟨y, x, hy, hx, rfl⟩ := exists_pixel_of_lt hi
  obtain ⟨cy, hcy1, hcyH, dy, hdy, rfl⟩ := exists_interior_neighbour hh hy
  obtain ⟨cx, hcx1, hcxW, dx, hdx, rfl⟩ := exists_interior_neighbour hw hx
  have hvalue := hpixels cy cx ((isInterior_iff s cy cx).mpr ⟨hcy1, hcyH, hcx1, hcxW⟩)
  rw [ne_eq, pixelAt_eq_none_iff hcy1 hcx1] at hvalue
  exact Option.isSome_iff_ne_none.mpr fun hnone => hvalue ⟨dy, hdy, dx, hdx, hnone⟩

/-- The step that ends an operation with a scan is the ENGINE's, and it finds every sample written. -/
theorem mosaicLoaded_of_last_step {s t : State} (hinv : BlockInv s) (hbusy : busy s = true)
    (hw : 3 ≤ s.widthR.toNat) (hh : 3 ≤ s.heightR.toNat) (hreset : nextEvent s ≠ .reset)
    (h : step s = .next t) (hidle : t.phase = .idle) : MosaicLoaded s := by
  have hrunning : s.phase ≠ .idle := (busy_eq_true_iff s).mp hbusy
  rcases step_next_cases h with ⟨_, _, heff⟩ | ⟨_, heng⟩ | ⟨hev, _⟩
  · rcases heff.phase_cases with hsame | ⟨_, hs, _⟩
    · exact absurd (hsame.symm.trans hidle) hrunning
    · exact absurd hs hrunning
  · exact mosaicLoaded_of_pixels hw hh fun _ _ =>
      pixelAt_ne_none_of_engine_finishes (blockInv_dropEvent hinv) hbusy hw hh heng hidle
  · exact absurd hev hreset

/-- By induction on the length of the run: no step before the last changes the samples. -/
theorem mosaicLoaded_of_finishesAfter {n : Nat} {s t : State} (hinv : BlockInv s)
    (hbusy : busy s = true) (hw : 3 ≤ s.widthR.toNat) (hh : 3 ≤ s.heightR.toNat)
    (h : FinishesAfter n s t) : MosaicLoaded s := by
  induction n generalizing s with
  | zero =>
    obtain ⟨_, _, hlast, hidle⟩ := h
    obtain rfl := Outcome.next.inj hlast
    simp [hbusy] at hidle
  | succ n ih =>
    have ⟨hevents, _⟩ := h
    have hreset : nextEvent s ≠ .reset := nextEvent_ne_reset hevents
    obtain ⟨u, hs, hrest⟩ := finishesAfter_succ h
    have hsame := step_sameInputs hbusy hreset hs
    cases hu : busy u with
    | false => exact mosaicLoaded_of_last_step hinv hbusy hw hh hreset hs ((busy_eq_false_iff u).mp hu)
    | true =>
      exact hsame.mosaicLoaded (ih (everyStepKeepsTheInvariant s u hinv hs) hu
        (by rwa [hsame.widthR]) (by rwa [hsame.heightR]) hrest)

/-- Settles O30: START leaves the samples, and the run that finishes the scan needs them all. -/
theorem finishedScanHadEverySample : Obligations.FinishedScanHadEverySample := by
  intro s s₁ t c n hinv hidle hvalid hw hh hstart hfin
  obtain ⟨hclear, hsame⟩ := exec_start_of_valid hidle hvalid hstart
  have hbusy : busy s₁ = true := (busy_eq_true_iff s₁).mpr (by simp [hclear])
  exact hsame.mosaicLoaded (mosaicLoaded_of_finishesAfter ((exec_effect hstart).keeps_blockInv hinv)
    hbusy (by rwa [hsame.widthR]) (by rwa [hsame.heightR]) hfin)

end Sys2Proof.Machine

/-! # The turns of the ENGINE -/

namespace Sys2Proof.Machine

open Sys2Proof Host

/-- Settles O8: the next event is the ENGINE's turn, from the list or for want of another event. -/
theorem engineTurnsWhenScheduled : Obligations.EngineTurnsWhenScheduled := by
  have hnil : ∀ s : State, s.events = [] → step s = engineTurn s := by
    intro s h
    have hdrop : dropEvent s = s := by
      rw [dropEvent, h, List.tail_nil, ← h]
    rw [step, nextEvent_nil h, hdrop]
  refine ⟨fun s rest h => ?_, hnil, fun s h hidle => ?_⟩
  · rw [step, nextEvent_cons h, dropEvent, h]
    rfl
  · rw [hnil s h, engineTurn, hidle]

/-! ## The three ends of CLEAR_STEP and of PIXEL_STEP (R141, R142, R148) -/

section

variable {s : State}

theorem nextCell_of_not_last (h : s.cidx + 1 ≠ imagePixels s) :
    nextCell s = { s with cidx := s.cidx + 1 } := if_neg h

theorem nextCell_of_last_with_interior (h : s.cidx + 1 = imagePixels s) (hw : 3 ≤ s.widthR.toNat)
    (hh : 3 ≤ s.heightR.toNat) :
    nextCell s = { s with cidx := s.cidx + 1, phase := .scan, sy := 1, sx := 1 } :=
  (if_pos h).trans (if_pos ⟨hw, hh⟩)

theorem nextCell_of_last_without_interior (h : s.cidx + 1 = imagePixels s)
    (hsmall : s.widthR.toNat < 3 ∨ s.heightR.toNat < 3) :
    nextCell s = finish { s with cidx := s.cidx + 1 } :=
  (if_pos h).trans (if_neg fun ⟨hw, hh⟩ => by simp only at hw hh; omega)

theorem advance_in_row (h : s.sx.toNat + 2 < s.widthR.toNat) :
    advance s = { s with sx := s.sx + 1 } := if_pos (by omega)

theorem advance_to_next_row (hx : s.sx.toNat + 2 = s.widthR.toNat)
    (hy : s.sy.toNat + 2 < s.heightR.toNat) :
    advance s = { s with sx := 1, sy := s.sy + 1 } := by
  rw [advance, if_neg (by omega), if_pos (by omega)]

theorem advance_at_end (hx : s.sx.toNat + 2 = s.widthR.toNat)
    (hy : s.sy.toNat + 2 = s.heightR.toNat) : advance s = finish s := by
  rw [advance, if_neg (by omega), if_neg (by omega)]

end

/-! ## What is the same at each of the three ends -/

@[simp] theorem handOver_cidx (s : State) : (handOver s).cidx = s.cidx := by
  rcases handOver_cases s with ⟨_, _, he⟩ | ⟨_, he⟩ <;> rw [he]
  rfl

@[simp] theorem nextCell_cidx (s : State) : (nextCell s).cidx = s.cidx + 1 := by
  rcases nextCell_cases s with ⟨_, he⟩ | ⟨_, he⟩ <;> rw [he]
  exact handOver_cidx _

@[simp] theorem advance_cidx (s : State) : (advance s).cidx = s.cidx := by
  rcases advance_cases s with ⟨_, he⟩ | ⟨_, _, he⟩ | ⟨_, _, he⟩ <;> rw [he]
  rfl

@[simp] theorem rgbRead_nextCell (s : State) (i : Nat) : rgbRead (nextCell s) i = rgbRead s i :=
  have ⟨hframe, hrgb⟩ := nextCell_frame s
  rgbRead_congr hframe.memPixels hrgb i

@[simp] theorem rgbRead_advance (s : State) (i : Nat) : rgbRead (advance s) i = rgbRead s i :=
  have ⟨hframe, hrgb⟩ := advance_frame s
  rgbRead_congr hframe.memPixels hrgb i

/-- The frame of the ENGINE as one equation. -/
theorem EngineFrame.eq_update {s t : State} (h : EngineFrame s t) :
    t = { s with rgb := t.rgb, phase := t.phase, cidx := t.cidx, sy := t.sy, sx := t.sx,
                 done := t.done } := by
  rw [← h.memPixels, ← h.widthR, ← h.heightR, ← h.layoutR, ← h.doneIe, ← h.errIe, ← h.accIe,
    ← h.err, ← h.accErr, ← h.accCause, ← h.errAddr, ← h.errWe, ← h.mosaic, ← h.events,
    ← h.responses]

/-! ## Where the ENGINE writes (R141, R148, R150) -/

section

variable {s : State}

/-- An operation in progress has an image that fits the memories (R227). -/
theorem imagePixels_le_memPixels (h : BlockInv s) (hbusy : busy s = true) :
    imagePixels s ≤ s.memPixels := by
  obtain ⟨_, _, _, _, hconfig, _, _⟩ := h
  obtain ⟨_, _, hfits, _⟩ := hconfig hbusy
  exact hfits

theorem cidx_lt_imagePixels (h : BlockInv s) (hphase : s.phase = .clear) :
    s.cidx < imagePixels s := by
  obtain ⟨_, _, _, _, _, hclear, _⟩ := h
  exact (hclear hphase).1

theorem cidx_lt_memPixels (h : BlockInv s) (hphase : s.phase = .clear) : s.cidx < s.memPixels :=
  lt_of_lt_of_le (cidx_lt_imagePixels h hphase)
    (imagePixels_le_memPixels h ((busy_eq_true_iff s).mpr (by simp [hphase])))

theorem scanPixel_isInterior (h : BlockInv s) (hphase : s.phase = .scan) :
    isInterior s s.sy.toNat s.sx.toNat = true := by
  obtain ⟨_, _, _, _, _, _, hscan⟩ := h
  exact (hscan hphase).1

theorem pixelIndex_lt_of_interior {y x : Nat} (h : isInterior s y x = true) :
    pixelIndex s y x < imagePixels s := by
  obtain ⟨_, hyH, _, hxW⟩ := (isInterior_iff s y x).mp h
  exact pixelIndex_lt (by omega) (by omega)

theorem scanPixel_lt_memPixels (h : BlockInv s) (hphase : s.phase = .scan) :
    pixelIndex s s.sy.toNat s.sx.toNat < s.memPixels :=
  lt_of_lt_of_le (pixelIndex_lt_of_interior (scanPixel_isInterior h hphase))
    (imagePixels_le_memPixels h ((busy_eq_true_iff s).mpr (by simp [hphase])))

/-- The cells before CIDX are black in the clear phase, and CLEAR_STEP adds one. -/
theorem rgbRead_black_of_clear (h : BlockInv s) (hphase : s.phase = .clear) :
    ∀ i < s.cidx + 1, rgbRead (rgbWrite s.cidx blackPixel s) i = some blackPixel := by
  have hlt := cidx_lt_memPixels h hphase
  obtain ⟨_, _, _, _, _, hclear, _⟩ := h
  exact rgbRead_rgbWrite_black hlt (hclear hphase).2

/-! ## The turn itself -/

/-- Under the invariant a CLEAR_STEP always goes on (R141). -/
theorem engineTurn_of_clear (h : BlockInv s) (hphase : s.phase = .clear) :
    engineTurn s = .next (nextCell (rgbWrite s.cidx blackPixel s)) := by
  rw [engineTurn, hphase]
  exact clearStep_next (cidx_lt_memPixels h hphase)

/-- Under the invariant a PIXEL_STEP whose window is written goes on (R143). -/
theorem engineTurn_of_pixelAt {p : Pixel} (h : BlockInv s) (hphase : s.phase = .scan)
    (hp : pixelAt s s.sy.toNat s.sx.toNat = some p) :
    engineTurn s = .next (advance (rgbWrite (pixelIndex s s.sy.toNat s.sx.toNat) p s)) := by
  rw [engineTurn_of_scan hphase, pixelStep, if_pos (scanPixel_isInterior h hphase), hp]
  exact if_pos (scanPixel_lt_memPixels h hphase)

/-- All a turn of the busy ENGINE does when it answers a next state (R141, R143). -/
theorem engineTurn_busy_cases {t : State} (hbusy : busy s = true) (h : engineTurn s = .next t) :
    (s.phase = .clear ∧ s.cidx < s.memPixels ∧ t = nextCell (rgbWrite s.cidx blackPixel s)) ∨
      (s.phase = .scan ∧ isInterior s s.sy.toNat s.sx.toNat = true ∧
        pixelIndex s s.sy.toNat s.sx.toNat < s.memPixels ∧
        ∃ p, pixelAt s s.sy.toNat s.sx.toNat = some p ∧
          t = advance (rgbWrite (pixelIndex s s.sy.toNat s.sx.toNat) p s)) :=
  (engineTurn_next_cases h).resolve_left fun ⟨hidle, _⟩ => (busy_eq_true_iff s).mp hbusy hidle

theorem pixelAt_of_isWindow {y x : Nat} {win : Window} (h : IsWindow s y x win) :
    pixelAt s y x = some (selectPixel (roleAt s.layoutR y x) win) := by
  rw [pixelAt, (fetchWindow_eq_some_iff s y x win).mpr h, Option.map_some]

theorem irq_finish (h : s.doneIe = true) : irq (finish s) = true := by
  simp [irq, h]

end

/-! ## The statements about one turn -/

/-- Settles O21, by the three ends of CLEAR_STEP. -/
theorem clearStepBlacksOneCell : Obligations.ClearStepBlacksOneCell := by
  intro s hinv hphase
  have hblack := rgbRead_black_of_clear hinv hphase
  set u := rgbWrite s.cidx blackPixel s
  have hframe : EngineFrame s (nextCell u) := (nextCell_frame u).1.after_rgbWrite
  refine ⟨nextCell u, engineTurn_of_clear hinv hphase, ?_, fun j hj => ?_, ?_, fun hmore => ?_,
    fun hlast hw hh => ?_, fun hlast hsmall => ?_⟩
  · rw [rgbRead_nextCell]
    exact hblack s.cidx (Nat.lt_succ_self _)
  · rw [rgbRead_nextCell]
    exact rgbRead_rgbWrite_other _ hj
  · have heq := hframe.eq_update
    rwa [nextCell_cidx] at heq
  · rw [nextCell_of_not_last (s := u) hmore]
    exact ⟨hphase, rfl, rfl, rfl⟩
  · rw [nextCell_of_last_with_interior (s := u) hlast hw hh]
    exact ⟨rfl, rfl, rfl, rfl⟩
  · have hzero : ∀ i < s.widthR.toNat * s.heightR.toNat,
        rgbRead (nextCell u) i = some blackPixel := by
      intro i hi
      rw [rgbRead_nextCell]
      exact hblack i (lt_of_lt_of_eq hi hlast.symm)
    rw [nextCell_of_last_without_interior (s := u) hlast hsmall] at hzero ⊢
    exact ⟨rfl, rfl, rfl, rfl, hzero⟩

/-- Settles O22, by the three ends of PIXEL_STEP. -/
theorem pixelStepWritesItsPixelAndAdvances : Obligations.PixelStepWritesItsPixelAndAdvances := by
  intro s win hinv hphase hwin
  have hp := pixelAt_of_isWindow hwin
  set p := selectPixel (roleAt s.layoutR s.sy.toNat s.sx.toNat) win
  set u := rgbWrite (pixelIndex s s.sy.toNat s.sx.toNat) p s
  have hframe : EngineFrame s (advance u) := (advance_frame u).1.after_rgbWrite
  refine ⟨advance u, engineTurn_of_pixelAt hinv hphase hp, ?_, fun j hj => ?_, ?_, fun hx => ?_,
    fun hx hy => ?_, fun hx hy => ?_⟩
  · rw [rgbRead_advance]
    exact rgbRead_rgbWrite_same p (scanPixel_lt_memPixels hinv hphase)
  · rw [rgbRead_advance]
    exact rgbRead_rgbWrite_other p hj
  · have heq := hframe.eq_update
    rwa [advance_cidx] at heq
  · rw [advance_in_row (s := u) hx]
    exact ⟨hphase, rfl, toNat_add_one (d := s.sx) (e := s.widthR) (by omega), rfl⟩
  · rw [advance_to_next_row (s := u) hx hy]
    exact ⟨hphase, toNat_add_one (d := s.sy) (e := s.heightR) (by omega), rfl, rfl⟩
  · rw [advance_at_end (s := u) hx hy]
    exact ⟨rfl, rfl, rfl, rfl, irq_finish⟩

/-- Settles O23: the pixel written is that of the role, whose sources are exact averages. -/
theorem pixelStepComputesTheFormulaOfItsRole :
    Obligations.PixelStepComputesTheFormulaOfItsRole := by
  intro s win hinv hphase hwin
  obtain ⟨t, ht, hread, _⟩ := pixelStepWritesItsPixelAndAdvances s win hinv hphase hwin
  refine ⟨t, _, ht, hread, fun hrole => ?_, fun hrole => ?_, fun hrole => ?_, fun hrole => ?_⟩ <;>
    rw [hrole]
  · exact ⟨rfl, average4_toNat _ _ _ _, average4_toNat _ _ _ _⟩
  · exact ⟨average2_toNat _ _, rfl, average2_toNat _ _⟩
  · exact ⟨average2_toNat _ _, rfl, average2_toNat _ _⟩
  · exact ⟨average4_toNat _ _ _ _, average4_toNat _ _ _ _, rfl⟩

/-- Settles O26: the cell is CIDX in the clear phase and the scan's pixel in the scan. -/
theorem engineTouchesOnlyItsOwnState : Obligations.EngineTouchesOnlyItsOwnState := by
  intro s t hinv hbusy h
  refine ⟨(engineTurn_frame h).eq_update, ?_⟩
  rcases engineTurn_busy_cases hbusy h with ⟨hphase, hlt, rfl⟩ | ⟨hphase, hin, _, p, _, rfl⟩
  · refine ⟨s.cidx, cidx_lt_imagePixels hinv hphase, fun k hk => ?_, fun _ => ⟨rfl, ?_⟩,
      fun hscan => absurd (hphase.symm.trans hscan) (by decide)⟩
    · rw [rgbRead_nextCell, rgbRead_rgbWrite_other _ hk]
    · rw [rgbRead_nextCell]
      exact rgbRead_rgbWrite_same _ hlt
  · refine ⟨pixelIndex s s.sy.toNat s.sx.toNat, pixelIndex_lt_of_interior hin, fun k hk => ?_,
      fun hclear => absurd (hphase.symm.trans hclear) (by decide),
      fun _ => ⟨rfl, (isInterior_iff _ _ _).mp hin⟩⟩
    rw [rgbRead_advance, rgbRead_rgbWrite_other _ hk]

/-! ## The length of an operation (R154) -/

section

variable {s : State}

theorem stepsLeft_of_idle (h : s.phase = .idle) : stepsLeft s = 0 := by
  rw [stepsLeft, h]

theorem stepsLeft_of_clear (h : s.phase = .clear) : stepsLeft s = operationSteps s - s.cidx := by
  rw [stepsLeft, h]

theorem stepsLeft_of_scan (h : s.phase = .scan) :
    stepsLeft s = (s.heightR.toNat - 2 - s.sy.toNat) * (s.widthR.toNat - 2) +
      (s.widthR.toNat - 2 - s.sx.toNat) + 1 := by
  rw [stepsLeft, h]

/-- HandOver leaves the steps of the scan, one for each interior pixel (R142, R154). -/
theorem stepsLeft_handOver :
    stepsLeft (handOver s) = (s.widthR.toNat - 2) * (s.heightR.toNat - 2) := by
  rcases handOver_cases s with ⟨hw, hh, he⟩ | ⟨hsmall, he⟩ <;> rw [he]
  · rw [stepsLeft_of_scan rfl]
    have hone : (1 : Dim).toNat = 1 := rfl
    obtain ⟨w, hw⟩ := Nat.exists_eq_add_of_le hw
    obtain ⟨h, hh⟩ := Nat.exists_eq_add_of_le hh
    simp only [hw, hh, hone, show 3 + w - 2 = w + 1 by omega, show 3 + h - 2 = h + 1 by omega,
      Nat.add_sub_cancel]
    ring
  · rw [stepsLeft_of_idle rfl]
    rcases hsmall with hw | hh
    · rw [show s.widthR.toNat - 2 = 0 by omega, Nat.zero_mul]
    · rw [show s.heightR.toNat - 2 = 0 by omega, Nat.mul_zero]

/-- A CLEAR_STEP inside the image uses one step. -/
theorem stepsLeft_nextCell (hphase : s.phase = .clear) (hlt : s.cidx < imagePixels s) :
    stepsLeft (nextCell s) + 1 = stepsLeft s := by
  rw [stepsLeft_of_clear hphase, operationSteps]
  rcases nextCell_cases s with ⟨_, he⟩ | ⟨hlast, he⟩ <;> rw [he]
  · rw [stepsLeft_of_clear (s := { s with cidx := s.cidx + 1 }) hphase, operationSteps]
    simp only [imagePixels] at hlt ⊢
    omega
  · rw [stepsLeft_handOver, ← hlast]
    simp only
    omega

/-- A PIXEL_STEP at an interior pixel uses one step. -/
theorem stepsLeft_advance (hphase : s.phase = .scan)
    (hin : isInterior s s.sy.toNat s.sx.toNat = true) :
    stepsLeft (advance s) + 1 = stepsLeft s := by
  obtain ⟨_, hyH, _, hxW⟩ := (isInterior_iff _ _ _).mp hin
  rw [stepsLeft_of_scan hphase]
  rcases advance_cases s with ⟨hx, he⟩ | ⟨hx, hy, he⟩ | ⟨hx, hy, he⟩ <;> rw [he]
  · rw [stepsLeft_of_scan (s := { s with sx := s.sx + 1 }) hphase]
    simp only [toNat_add_one (d := s.sx) (e := s.widthR) (by omega)]
    omega
  · rw [stepsLeft_of_scan (s := { s with sx := 1, sy := s.sy + 1 }) hphase]
    have hone : (1 : Dim).toNat = 1 := rfl
    obtain ⟨rows, hrows⟩ := Nat.exists_eq_add_of_lt hy
    simp only [toNat_add_one (d := s.sy) (e := s.heightR) (by omega), hone,
      show s.heightR.toNat - 2 - s.sy.toNat = rows + 1 by omega,
      show s.heightR.toNat - 2 - (s.sy.toNat + 1) = rows by omega, Nat.succ_mul]
    omega
  · rw [stepsLeft_of_idle rfl, show s.heightR.toNat - 2 - s.sy.toNat = 0 by omega]
    omega

/-- An operation in progress has a step left (R154). -/
theorem stepsLeft_eq_zero_iff (hinv : BlockInv s) : stepsLeft s = 0 ↔ s.phase = .idle := by
  cases hphase : s.phase with
  | idle => simp [stepsLeft_of_idle hphase]
  | clear =>
    have hlt := cidx_lt_imagePixels hinv hphase
    rw [stepsLeft_of_clear hphase, operationSteps]
    simp only [reduceCtorEq, iff_false]
    omega
  | scan => simp [stepsLeft_of_scan hphase]

/-- The scan has at most as many steps as the clear phase (R154). -/
theorem operationSteps_le : operationSteps s ≤ 2 * imagePixels s := by
  have hscan : (s.widthR.toNat - 2) * (s.heightR.toNat - 2) ≤ imagePixels s :=
    Nat.mul_le_mul (Nat.sub_le _ _) (Nat.sub_le _ _)
  rw [operationSteps]
  omega

/-- The state in which a START of a valid configuration from idle leaves the block (R174, R176). -/
theorem exec_start_eq {t : State} {clear : Bool} (hidle : s.phase = .idle) (hvalid : ConfigValid s)
    (h : exec (.wrCtrl true clear) s = .next t) :
    t = respond .okay 0
      { afterClear clear s with done := false, err := .none, phase := .clear, cidx := 0 } := by
  rw [exec_start_of_idle clear hidle] at h
  have hcheck : configCheck (afterClear clear s) = .none := by
    rw [configCheck_afterClear]
    exact (configCheck_eq_none_iff s).mpr hvalid
  rcases doStart_cases (afterClear clear s) with ⟨_, he⟩ | ⟨hne, _⟩
  · rw [← he]
    exact (Outcome.next.inj h).symm
  · exact absurd hcheck hne

/-- An accepted START has all the steps of its operation before it (R154). -/
theorem stepsLeft_of_start {t : State} {clear : Bool} (hidle : s.phase = .idle)
    (hvalid : ConfigValid s) (h : exec (.wrCtrl true clear) s = .next t) :
    stepsLeft t = operationSteps s := by
  have hcidx : t.cidx = 0 := by rw [exec_start_eq hidle hvalid h]; rfl
  obtain ⟨hphase, hsame⟩ := exec_start_of_valid hidle hvalid h
  rw [stepsLeft_of_clear hphase, hcidx, Nat.sub_zero]
  simp only [operationSteps, imagePixels, hsame.widthR, hsame.heightR]

end

/-- Settles O27: `stepsLeft` falls by one at each of the ends of a step. -/
theorem eachEngineTurnUsesOneStepOfTheBound :
    Obligations.EachEngineTurnUsesOneStepOfTheBound := by
  refine ⟨fun s t hinv hbusy h => ?_, fun s t c hidle hvalid h => ?_,
    fun s => stepsLeft_eq_zero_iff⟩
  · rcases engineTurn_busy_cases hbusy h with ⟨hphase, _, rfl⟩ | ⟨hphase, hin, _, p, _, rfl⟩
    · exact stepsLeft_nextCell (s := rgbWrite s.cidx blackPixel s) hphase
        (cidx_lt_imagePixels (s := s) hinv hphase)
    · exact stepsLeft_advance (s := rgbWrite (pixelIndex s s.sy.toNat s.sx.toNat) p s) hphase hin
  · rw [stepsLeft_of_start hidle hvalid h]
    obtain ⟨_, _, hfits, _⟩ := hvalid
    exact ⟨rfl, operationSteps_le.trans (Nat.mul_le_mul_left 2 hfits)⟩

end Sys2Proof.Machine

/-! # The image of an operation -/

namespace Sys2Proof.Machine

open Sys2Proof Host

/-! ## What the image is a function of (R151, R153) -/

theorem SameInputs.imageCell_eq {s t : State} (h : SameInputs s t) (y x : Nat) :
    imageCell t y x = imageCell s y x :=
  imageCell_congr h.memPixels h.mosaic h.widthR h.heightR h.layoutR y x

theorem imageCell_of_not_interior {s : State} {y x : Nat} (h : ¬ isInterior s y x = true) :
    imageCell s y x = some blackPixel := if_neg h

/-- The image is a function of the dimensions, the layout and the samples inside it (R153). -/
theorem imageCell_eq_of_image_eq {s s' : State} (hw : s'.widthR = s.widthR)
    (hh : s'.heightR = s.heightR) (hl : s'.layoutR = s.layoutR)
    (hcells : ∀ i < imagePixels s, mosaicRead s' i = mosaicRead s i) (y x : Nat) :
    imageCell s' y x = imageCell s y x := by
  have hinterior := isInterior_congr hw hh y x
  by_cases hin : isInterior s y x = true
  · obtain ⟨_, hyH, _, hxW⟩ := (isInterior_iff s y x).mp hin
    rw [imageCell, imageCell, if_pos hin, if_pos (hinterior.trans hin), pixelAt, pixelAt, hl,
      fetchWindow_eq_of_image_eq hw hcells hyH hxW]
  · rw [imageCell_of_not_interior hin, imageCell_of_not_interior (by rwa [hinterior])]

/-- In a loaded mosaic every interior pixel has its window (R121, R130). -/
theorem exists_isWindow_of_mosaicLoaded {s : State} (hloaded : MosaicLoaded s) {y x : Nat}
    (hin : isInterior s y x = true) : ∃ win, IsWindow s y x win := by
  obtain ⟨hy, hyH, hx, hxW⟩ := (isInterior_iff s y x).mp hin
  have hvalue : pixelAt s y x ≠ none := by
    rw [ne_eq, pixelAt_eq_none_iff hy hx]
    rintro ⟨dy, hdy, dx, hdx, hnone⟩
    obtain ⟨_, _, hindexes⟩ := windowStaysInsideTheImage s y x hy hyH hx hxW
    obtain ⟨_, _, hlt⟩ := hindexes dy hdy dx hdx
    simpa [hnone] using hloaded _ hlt
  obtain ⟨p, hp⟩ := Option.ne_none_iff_exists'.mp hvalue
  obtain ⟨win, hwin, _⟩ := Option.map_eq_some_iff.mp hp
  exact ⟨win, (fetchWindow_eq_some_iff s y x win).mp hwin⟩

/-! ## The turn that ends an operation (R142, R149) -/

/-- RGB of `t` holds the image of the inputs of `s`, in cells 0 to W*H-1 (R151). -/
def HoldsImageOf (s t : State) : Prop :=
  ∀ y < s.heightR.toNat, ∀ x < s.widthR.toNat, rgbRead t (pixelIndex s y x) = imageCell s y x

/-- A CLEAR_STEP that ends its operation leaves the image, which has no interior (R142). -/
theorem holdsImageOf_nextCell {s : State} (hinv : BlockInv s) (hphase : s.phase = .clear)
    (hidle : (nextCell (rgbWrite s.cidx blackPixel s)).phase = .idle) :
    HoldsImageOf s (nextCell (rgbWrite s.cidx blackPixel s)) := by
  have hblack := rgbRead_black_of_clear hinv hphase
  intro y hy x hx
  have hborder : ¬ isInterior s y x = true := by
    intro hin
    obtain ⟨_, hyH, _, hxW⟩ := (isInterior_iff s y x).mp hin
    exact nextCell_phase_ne_idle (s := rgbWrite s.cidx blackPixel s) hphase (by simp; omega)
      (by simp; omega) hidle
  rw [rgbRead_nextCell, imageCell_of_not_interior hborder]
  rcases nextCell_cases (rgbWrite s.cidx blackPixel s) with ⟨_, he⟩ | ⟨hlast, _⟩
  · simp [he, hphase] at hidle
  · exact hblack _ (lt_of_lt_of_eq (pixelIndex_lt hy hx) hlast.symm)

/-- The PIXEL_STEP that ends its operation completes the image (R149, R151). -/
theorem holdsImageOf_advance {s : State} {p : Pixel} (hinv : BlockInv s) (hphase : s.phase = .scan)
    (hp : pixelAt s s.sy.toNat s.sx.toNat = some p)
    (hidle : (advance (rgbWrite (pixelIndex s s.sy.toNat s.sx.toNat) p s)).phase = .idle) :
    HoldsImageOf s (advance (rgbWrite (pixelIndex s s.sy.toNat s.sx.toNat) p s)) := by
  have hcur := scanPixel_isInterior hinv hphase
  have hlt := scanPixel_lt_memPixels hinv hphase
  obtain ⟨_, _, _, hsx⟩ := (isInterior_iff _ _ _).mp hcur
  obtain ⟨_, _, _, _, _, _, hscan⟩ := hinv
  obtain ⟨_, hcells⟩ := hscan hphase
  intro y hy x hx
  rw [rgbRead_advance]
  by_cases hat : y = s.sy.toNat ∧ x = s.sx.toNat
  · obtain ⟨rfl, rfl⟩ := hat
    rw [rgbRead_rgbWrite_same p hlt, imageCell, if_pos hcur, hp]
  · have hother : pixelIndex s y x ≠ pixelIndex s s.sy.toNat s.sx.toNat := fun hidx =>
      hat (pixelIndex_injective hx (by omega) hidx)
    obtain ⟨hread, _⟩ := hcells y hy x hx
    rw [rgbRead_rgbWrite_other p hother, hread]
    by_cases hin : isInterior s y x = true
    · have hscanned : isScanned s y x = true :=
        (isScanned_or_current_of_advance_idle
          (s := rgbWrite (pixelIndex s s.sy.toNat s.sx.toNat) p s) hphase hidle hin).resolve_right hat
      rw [partialCell, if_pos hscanned]
    · rw [imageCell_of_not_interior hin, partialCell_of_not_interior (by simpa using hin)]

theorem holdsImageOf_of_engine_finishes {s t : State} (hinv : BlockInv s) (hbusy : busy s = true)
    (h : engineTurn s = .next t) (hidle : t.phase = .idle) : HoldsImageOf s t := by
  rcases engineTurn_busy_cases hbusy h with ⟨hphase, _, rfl⟩ | ⟨hphase, _, _, p, hp, rfl⟩
  · exact holdsImageOf_nextCell hinv hphase hidle
  · exact holdsImageOf_advance hinv hphase hp hidle

/-! ## One step of a run (R258) -/

/-- No transaction writes RGB (R204). -/
theorem TransactionEffect.rgb {i : Instr} {s t : State} (h : TransactionEffect i s t) :
    t.rgb = s.rgb := by
  cases h with
  | refused => rw [recordAccessError_frame]; rfl
  | controlled clear _ => cases clear <;> rfl
  | started clear _ _ =>
    rcases doStart_cases (afterClear clear s) with ⟨_, he⟩ | ⟨_, he⟩ <;> rw [he] <;>
      cases clear <;> rfl
  | answered | configured | enabled | sampled => rfl

/-- No step of an operation writes an RGB cell outside the image (R150). -/
theorem step_rgbRead_outside {s t : State} (hinv : BlockInv s) (hbusy : busy s = true)
    (hreset : nextEvent s ≠ .reset) (h : step s = .next t) {i : Nat} (hi : imagePixels s ≤ i) :
    rgbRead t i = rgbRead s i := by
  rcases step_next_cases h with ⟨_, _, heff⟩ | ⟨_, heng⟩ | ⟨hev, _⟩
  · exact rgbRead_congr (step_sameInputs hbusy hreset h).memPixels heff.rgb i
  · obtain ⟨_, j, hj, hother, _⟩ :=
      engineTouchesOnlyItsOwnState _ t (blockInv_dropEvent hinv) hbusy heng
    exact hother i (lt_of_lt_of_le hj hi).ne'
  · exact absurd hev hreset

/-- The step that ends an operation is the ENGINE's, and it sets DONE (R149). -/
theorem engineTurn_of_last_step {s t : State} (hbusy : busy s = true)
    (hreset : nextEvent s ≠ .reset) (h : step s = .next t) (hidle : t.phase = .idle) :
    engineTurn (dropEvent s) = .next t ∧ t.done = true := by
  have hrunning : s.phase ≠ .idle := (busy_eq_true_iff s).mp hbusy
  rcases step_next_cases h with ⟨_, _, heff⟩ | ⟨_, heng⟩ | ⟨hev, _⟩
  · rcases heff.phase_cases with hsame | ⟨_, hs, _⟩
    · exact absurd (hsame.symm.trans hidle) hrunning
    · exact absurd hs hrunning
  · refine ⟨heng, ?_⟩
    rcases engineTurn_phase_done heng with ⟨hsame, _⟩ | ⟨_, hscan, _⟩ | ⟨_, _, hdone⟩
    · exact absurd (hsame.symm.trans hidle) hrunning
    · exact absurd (hidle.symm.trans hscan) (by decide)
    · exact hdone
  · exact absurd hev hreset

/-! ## The run of an operation (R151) -/

/-- `t` holds all that an operation on the inputs of `s` should leave. -/
structure OperationResult (s t : State) : Prop where
  done : t.done = true
  inputs : SameInputs s t
  image : HoldsImageOf s t
  outside : ∀ i, imagePixels s ≤ i → rgbRead t i = rgbRead s i

/-- The result carries over to an earlier state with the same inputs and the same RGB outside the image. -/
theorem OperationResult.of_sameInputs {s u t : State} (h : OperationResult u t)
    (hsame : SameInputs s u) (houtside : ∀ i, imagePixels s ≤ i → rgbRead u i = rgbRead s i) :
    OperationResult s t := by
  obtain ⟨hdone, hinputs, himage, hout⟩ := h
  have hpixels : imagePixels u = imagePixels s := by
    simp only [imagePixels, hsame.widthR, hsame.heightR]
  refine ⟨hdone, ⟨?_, ?_, ?_, ?_, ?_⟩, fun y hy x hx => ?_, fun i hi => ?_⟩
  · exact hinputs.memPixels.trans hsame.memPixels
  · exact hinputs.widthR.trans hsame.widthR
  · exact hinputs.heightR.trans hsame.heightR
  · exact hinputs.layoutR.trans hsame.layoutR
  · exact hinputs.mosaic.trans hsame.mosaic
  · have hcell := himage y (by rwa [hsame.heightR]) x (by rwa [hsame.widthR])
    rwa [pixelIndex, hsame.widthR, hsame.imageCell_eq] at hcell
  · rw [hout i (by rwa [hpixels]), houtside i hi]

/-- A run of an operation that is over has no step. -/
theorem finishesAfter_of_idle {n : Nat} {s t : State} (h : FinishesAfter n s t)
    (hidle : busy s = false) : t = s := by
  obtain ⟨_, hbefore, hlast, _⟩ := h
  cases n with
  | zero => exact (Outcome.next.inj hlast).symm
  | succ n =>
    obtain ⟨u, hu, hbusy⟩ := hbefore 0 (Nat.succ_pos n)
    obtain rfl := Outcome.next.inj hu
    simp [hidle] at hbusy

/-- By induction on the length of the run: its last step completes the image, and the others keep the
inputs. -/
theorem operationResult_of_finishesAfter {n : Nat} {s t : State} (hinv : BlockInv s)
    (hbusy : busy s = true) (h : FinishesAfter n s t) : OperationResult s t := by
  induction n generalizing s with
  | zero =>
    obtain ⟨_, _, hlast, hidle⟩ := h
    obtain rfl := Outcome.next.inj hlast
    simp [hbusy] at hidle
  | succ n ih =>
    have ⟨hevents, _⟩ := h
    have hreset : nextEvent s ≠ .reset := nextEvent_ne_reset hevents
    obtain ⟨u, hs, hrest⟩ := finishesAfter_succ h
    have hsame := step_sameInputs hbusy hreset hs
    have houtside : ∀ i, imagePixels s ≤ i → rgbRead u i = rgbRead s i := fun _ =>
      step_rgbRead_outside hinv hbusy hreset hs
    cases hu : busy u with
    | true => exact (ih (everyStepKeepsTheInvariant s u hinv hs) hu hrest).of_sameInputs hsame houtside
    | false =>
      obtain rfl := finishesAfter_of_idle hrest hu
      have hidle := (busy_eq_false_iff t).mp hu
      obtain ⟨heng, hdone⟩ := engineTurn_of_last_step hbusy hreset hs hidle
      have himage : HoldsImageOf (dropEvent s) t :=
        holdsImageOf_of_engine_finishes (blockInv_dropEvent hinv) hbusy heng hidle
      exact ⟨hdone, hsame, himage, houtside⟩

section

variable {n : Nat} {s s₁ t : State} {clear : Bool}

/-- What the operation of an accepted START leaves, in terms of the state before START. -/
theorem operationResult_of_start (hinv : BlockInv s) (hidle : s.phase = .idle)
    (hvalid : ConfigValid s) (hstart : exec (.wrCtrl true clear) s = .next s₁)
    (hfin : FinishesAfter n s₁ t) : OperationResult s t := by
  obtain ⟨hclear, hsame⟩ := exec_start_of_valid hidle hvalid hstart
  have heff := exec_effect hstart
  have hbusy : busy s₁ = true := (busy_eq_true_iff s₁).mpr (by simp [hclear])
  exact (operationResult_of_finishesAfter (heff.keeps_blockInv hinv) hbusy hfin).of_sameInputs hsame
    fun i _ => rgbRead_congr hsame.memPixels heff.rgb i

end

/-- Settles O28: the result of the operation, with the image cell written out for the interior and the
border. -/
theorem finishedOperationHoldsTheImage : Obligations.FinishedOperationHoldsTheImage := by
  intro s s₁ t c n hinv hidle hvalid hstart hfin
  obtain ⟨hdone, hinputs, himage, houtside⟩ :=
    operationResult_of_start hinv hidle hvalid hstart hfin
  refine ⟨hdone, fun y hy x hx => ⟨fun hyx => ?_, fun hyx => ?_⟩, houtside, fun i =>
    mosaicRead_congr hinputs.memPixels hinputs.mosaic i⟩
  · have hin := (isInterior_iff s y x).mpr hyx
    have hloaded : MosaicLoaded s :=
      finishedScanHadEverySample s s₁ t c n hinv hidle hvalid (by omega) (by omega) hstart hfin
    obtain ⟨win, hwin⟩ := exists_isWindow_of_mosaicLoaded hloaded hin
    refine ⟨win, hwin, (himage y hy x hx).trans ?_⟩
    rw [imageCell, if_pos hin, pixelAt_of_isWindow hwin, roleAt, parity, parity,
      Nat.testBit_zero, Nat.testBit_zero]
  · exact (himage y hy x hx).trans
      (imageCell_of_not_interior fun hin => hyx ((isInterior_iff s y x).mp hin))

/-- Settles O31: both operations leave the image of their inputs, and the inputs fix the image. -/
theorem equalInputsGiveEqualImages : Obligations.EqualInputsGiveEqualImages := by
  intro s s' s₁ s₁' t t' c c' n n' hinv hidle hvalid hinv' hidle' hvalid' hw hh hl hcells
    hstart hfin hstart' hfin' i hi
  have himage := (operationResult_of_start hinv hidle hvalid hstart hfin).image
  have himage' := (operationResult_of_start hinv' hidle' hvalid' hstart' hfin').image
  obtain ⟨y, x, hy, hx, rfl⟩ := exists_pixel_of_lt hi
  calc rgbRead t' (pixelIndex s y x)
      = rgbRead t' (pixelIndex s' y x) := by rw [pixelIndex, pixelIndex, hw]
    _ = imageCell s' y x := himage' y (by rwa [hh]) x (by rwa [hw])
    _ = imageCell s y x := imageCell_eq_of_image_eq hw hh hl hcells y x
    _ = rgbRead t (pixelIndex s y x) := (himage y hy x hx).symm

end Sys2Proof.Machine

/-! # The statements about the register transactions -/

namespace Sys2Proof.Machine

open Sys2Proof Host

/-- The class of a word from the class of its fields (R83). -/
theorem decode_packTxn_of_class {we : Bool} {addr : Addr} {d : Word} {i : Instr}
    (h : decodeFields we addr d = i) : decode (packTxn we addr d) = i :=
  (decode_packTxn we addr d).trans h

/-! ## START: what ConfigCheck finds, and what is left of it (R176, R227, R228) -/

/-- CLEAR, if it is set, clears the records as Safety.lean writes them out (R175). -/
theorem afterClear_eq_ite (clear : Bool) (s : State) :
    afterClear clear s = if clear then clearedState s else s := by
  cases clear <;> rfl

/-- ConfigCheck by the numbers in its fields (R227). -/
theorem configCheck_eq_ite (s : State) :
    configCheck s =
      if s.widthR.toNat = 0 ∨ s.heightR.toNat = 0 then .zeroDim
      else if 3 < s.layoutR.toNat then .badLayout
      else if s.memPixels < s.widthR.toNat * s.heightR.toNat then .capacity
      else .none := by
  simp [configCheck, ← BitVec.toNat_inj]

@[simp] theorem doStart_errIe (s : State) : (doStart s).errIe = s.errIe := by
  rcases doStart_cases s with ⟨_, he⟩ | ⟨_, he⟩ <;> rw [he]

@[simp] theorem afterClear_errIe (clear : Bool) (s : State) :
    (afterClear clear s).errIe = s.errIe := by
  cases clear <;> rfl

section

variable {s : State}

theorem configCheck_eq_zeroDim (h : s.widthR.toNat = 0 ∨ s.heightR.toNat = 0) :
    configCheck s = .zeroDim := by
  rw [configCheck_eq_ite, if_pos h]

theorem configCheck_eq_badLayout (hw : 1 ≤ s.widthR.toNat) (hh : 1 ≤ s.heightR.toNat)
    (hl : 3 < s.layoutR.toNat) : configCheck s = .badLayout := by
  rw [configCheck_eq_ite, if_neg (by omega), if_pos hl]

theorem configCheck_eq_capacity (hw : 1 ≤ s.widthR.toNat) (hh : 1 ≤ s.heightR.toNat)
    (hl : s.layoutR.toNat ≤ 3) (hcap : s.memPixels < s.widthR.toNat * s.heightR.toNat) :
    configCheck s = .capacity := by
  rw [configCheck_eq_ite, if_neg (by omega), if_neg (by omega), if_pos hcap]

/-- A rejected START records its code in ERR and clears DONE (R228). -/
theorem doStart_of_rejected {code : ErrCode} (hcheck : configCheck s = code) (hcode : code ≠ .none) :
    doStart s = { s with done := false, err := code } := by
  rcases doStart_cases s with ⟨hnone, _⟩ | ⟨_, he⟩
  · exact absurd (hcheck.symm.trans hnone) hcode
  · rw [he, hcheck]

/-- A rejected START from idle is answered OKAY and leaves the code, after what its CLEAR clears (R174, R228). -/
theorem exec_start_of_rejected {code : ErrCode} (clear : Bool) (hidle : s.phase = .idle)
    (hcheck : configCheck s = code) (hcode : code ≠ .none) :
    exec (.wrCtrl true clear) s = .next (answeredState 0#32
      { (if clear then clearedState s else s) with done := false, err := code }) := by
  rw [exec_start_of_idle clear hidle,
    doStart_of_rejected ((configCheck_afterClear clear s).trans hcheck) hcode, afterClear_eq_ite]
  rfl

/-- An enabled error code raises irq (R43). -/
theorem irq_of_err (hie : s.errIe = true) (herr : s.err ≠ .none) : irq s = true := by
  simp [irq, hie, herr]

end

/-- Settles O44, by the code that ConfigCheck finds in each of the three cases. -/
theorem rejectedStartLeavesOnlyTheCode : Obligations.RejectedStartLeavesOnlyTheCode := by
  intro s c hidle
  refine ⟨fun hzero => ?_, fun hw hh hl => ?_, fun hw hh hl hcap => ?_, fun t h herr hie => ?_⟩
  · exact exec_start_of_rejected c hidle (configCheck_eq_zeroDim hzero) (by decide)
  · exact exec_start_of_rejected c hidle (configCheck_eq_badLayout hw hh hl) (by decide)
  · exact exec_start_of_rejected c hidle (configCheck_eq_capacity hw hh hl hcap) (by decide)
  · rw [exec_start_of_idle c hidle] at h
    obtain rfl := Outcome.next.inj h
    exact irq_of_err (by simpa using hie) herr

/-- Settles O45: ConfigCheck finds nothing, so the operation begins. -/
theorem acceptedStartBeginsTheClearPhase : Obligations.AcceptedStartBeginsTheClearPhase := by
  intro s c hidle hvalid
  have h := exec_start_of_idle c hidle
  rw [h, exec_start_eq hidle hvalid h, afterClear_eq_ite]
  rfl

/-! ## CTRL without START, and START during an operation (R174, R175) -/

/-- A CTRL write without START is answered OKAY in every phase, and its CLEAR is all it does (R174, R175). -/
theorem exec_wrCtrl_without_start (clear : Bool) (s : State) :
    exec (.wrCtrl false clear) s =
      .next (answeredState 0#32 (if clear then clearedState s else s)) := by
  cases clear <;> rfl

/-- After a CLEAR no source of irq is left (R43, R175). -/
theorem irq_clearedState (s : State) : irq (clearedState s) = false := by
  simp [irq, clearedState]

/-- Settles O42: what CLEAR clears is all that irq and the flags of a running operation speak of. -/
theorem ctrlWriteWithoutStart : Obligations.CtrlWriteWithoutStart := by
  intro s d
  refine ⟨decode_packTxn_of_class (decodeFields_ctrlAddr true d), exec_wrCtrl_without_start false s,
    exec_wrCtrl_without_start true s, irq_clearedState s, fun hinv => ?_⟩
  obtain ⟨_, _, _, ⟨hflags, _⟩, _⟩ := hinv
  exact hflags

/-- Settles O43: of the two ends of a CTRL write, the BUSY refusal. -/
theorem startWhileBusyIsRefused : Obligations.StartWhileBusyIsRefused := by
  intro s c hphase
  rcases execWrCtrl_cases true c s with ⟨_, _, he⟩ | ⟨hgo, _⟩
  · exact he.trans (raiseAccessError_eq_refusedState _ _ _ _)
  · exact absurd ((busy_eq_false_iff s).mp (hgo.resolve_left (by decide))) hphase

/-! ## Reads of the configuration and the constants (R171 to R187) -/

/-- WIDTH is zero-extended on the bus (R179). -/
theorem widthWord_eq_append (s : State) : widthWord s = 0#16 ++ s.widthR :=
  BitVec.setWidth_eq_append (by decide)

/-- HEIGHT is zero-extended on the bus (R181). -/
theorem heightWord_eq_append (s : State) : heightWord s = 0#16 ++ s.heightR :=
  BitVec.setWidth_eq_append (by decide)

/-- LAYOUT is zero-extended on the bus (R183). -/
theorem layoutWord_eq_append (s : State) : layoutWord s = 0#24 ++ s.layoutR :=
  BitVec.setWidth_eq_append (by decide)

/-- Settles O33: the word of each register, and the class of its offset. -/
theorem registerReadsAnswerTheirFields : Obligations.RegisterReadsAnswerTheirFields := by
  intro s d
  rw [← widthWord_eq_append, ← heightWord_eq_append, ← layoutWord_eq_append]
  exact ⟨decode_packTxn_of_class (decodeFields_idAddr false d),
    decode_packTxn_of_class (decodeFields_ctrlAddr false d),
    decode_packTxn_of_class (decodeFields_widthAddr false d),
    decode_packTxn_of_class (decodeFields_heightAddr false d),
    decode_packTxn_of_class (decodeFields_layoutAddr false d),
    decode_packTxn_of_class (decodeFields_irqenAddr false d),
    rfl, rfl, rfl, rfl, rfl, rfl⟩

/-- CAPACITY holds every legal MEM_PIXELS without loss (R6, R33). -/
theorem capacityWord_toNat {s : State} (h : s.memPixels ≤ 2 ^ 20) :
    (capacityWord s).toNat = s.memPixels := by
  simp only [capacityWord, BitVec.toNat_setWidth, BitVec.toNat_ofNat]
  omega

/-- No transaction writes MEM_PIXELS (R6). -/
theorem TransactionEffect.memPixels {i : Instr} {s t : State} (h : TransactionEffect i s t) :
    t.memPixels = s.memPixels := by
  cases h with
  | refused => rw [recordAccessError_frame]; rfl
  | controlled clear _ => exact (afterClear_sameInputs clear s).memPixels
  | started clear _ _ =>
    rcases doStart_cases (afterClear clear s) with ⟨_, he⟩ | ⟨_, he⟩ <;> rw [he] <;>
      exact (afterClear_sameInputs clear s).memPixels
  | answered | configured | enabled | sampled => rfl

/-- MEM_PIXELS is a constant of the block (R6, R33). -/
theorem step_memPixels {s t : State} (h : step s = .next t) : t.memPixels = s.memPixels := by
  rcases step_next_cases h with ⟨_, _, heff⟩ | ⟨_, heng⟩ | ⟨_, rfl⟩
  · exact heff.memPixels
  · exact (engineTurn_frame heng).memPixels
  · rfl

/-- Settles O34, by the width of CAPACITY and the constancy of MEM_PIXELS. -/
theorem capacityReadAnswersMemPixels : Obligations.CapacityReadAnswersMemPixels :=
  ⟨fun s d _ hmax => ⟨decode_packTxn_of_class (decodeFields_capacityAddr false d),
    capacityWord s, rfl, capacityWord_toNat hmax⟩, fun _ _ => step_memPixels⟩

/-! ## The fields of STATUS (R28, R177) -/

section

variable (s : State)

theorem busy_eq_decide : busy s = decide (s.phase ≠ .idle) := by
  rw [Bool.eq_iff_iff, busy_eq_true_iff, decide_eq_true_eq]

theorem statusWord_busy : (statusWord s).getLsbD 0 = busy s := by
  simp only [statusWord, BitVec.getLsbD_append]
  simp

theorem statusWord_done : (statusWord s).getLsbD 1 = s.done := by
  simp only [statusWord, BitVec.getLsbD_append]
  simp

theorem statusWord_accErr : (statusWord s).getLsbD 2 = s.accErr := by
  simp only [statusWord, BitVec.getLsbD_append]
  simp

/-- The reserved bits of STATUS read 0 (R28). -/
theorem statusWord_reserved :
    (statusWord s).getLsbD 3 = false ∧ (statusWord s).extractLsb' 6 2 = 0#2 ∧
      (statusWord s).extractLsb' 11 21 = 0#21 := by
  simp only [statusWord, BitVec.getLsbD_append, BitVec.extractLsb'_append_eq_ite]
  simp

theorem statusWord_err : (statusWord s).extractLsb' 4 2 = errCode s.err := by
  simp only [statusWord, BitVec.extractLsb'_append_eq_ite]
  simp

theorem statusWord_accCause : (statusWord s).extractLsb' 8 3 = causeCode s.accCause := by
  simp only [statusWord, BitVec.extractLsb'_append_eq_ite]
  simp

end

/-- STATUS.ERR reads the number of the code (R36). -/
theorem statusWord_err_of_eq {s : State} {e : ErrCode} (h : s.err = e) :
    (statusWord s).extractLsb' 4 2 = errCode e := h ▸ statusWord_err s

/-- STATUS.ACC_CAUSE reads the number of the cause (R221). -/
theorem statusWord_accCause_of_eq {s : State} {c : AccCause} (h : s.accCause = c) :
    (statusWord s).extractLsb' 8 3 = causeCode c := h ▸ statusWord_accCause s

/-- In STATUS DONE excludes BUSY and every error code (R177). -/
theorem statusWord_done_excludes {s : State} (h : FlagsOk s) :
    ¬((statusWord s).getLsbD 0 = true ∧ (statusWord s).getLsbD 1 = true) ∧
      ¬((statusWord s).getLsbD 1 = true ∧ (statusWord s).extractLsb' 4 2 ≠ 0#2) := by
  obtain ⟨hbusy, hdone⟩ := h
  rw [statusWord_busy, statusWord_done]
  refine ⟨fun ⟨hb, hd⟩ => ?_, fun ⟨hd, hcode⟩ => hcode (statusWord_err_of_eq (hdone hd))⟩
  obtain ⟨hnotDone, _⟩ := hbusy hb
  exact absurd hd (by simp [hnotDone])

/-- Settles O35, by the fields of `statusWord`; the exclusions are those of the invariant. -/
theorem statusReadAnswersTheFlags : Obligations.StatusReadAnswersTheFlags := by
  intro s d
  obtain ⟨hbit3, hbits6, hbits11⟩ := statusWord_reserved s
  refine ⟨decode_packTxn_of_class (decodeFields_statusAddr false d), statusWord s, rfl,
    (statusWord_busy s).trans (busy_eq_decide s), statusWord_done s, statusWord_accErr s,
    hbit3, hbits6, hbits11, statusWord_err_of_eq, statusWord_err_of_eq, statusWord_err_of_eq,
    statusWord_err_of_eq, statusWord_accCause_of_eq, statusWord_accCause_of_eq,
    statusWord_accCause_of_eq, statusWord_accCause_of_eq, statusWord_accCause_of_eq,
    statusWord_accCause_of_eq, fun hinv => ?_⟩
  obtain ⟨_, _, _, hflags, _⟩ := hinv
  exact statusWord_done_excludes hflags

/-! ## The fields of ERRADDR (R34, R189) -/

/-- ERRADDR holds the offset and the direction, and 0 in its reserved bits (R34). -/
theorem erraddrWord_fields (s : State) :
    (erraddrWord s).extractLsb' 0 24 = s.errAddr ∧ (erraddrWord s).getLsbD 24 = s.errWe ∧
      (erraddrWord s).extractLsb' 25 7 = 0#7 := by
  simp only [erraddrWord, BitVec.getLsbD_append, BitVec.extractLsb'_append_eq_ite]
  simp

/-- ERRADDR reads 0 when no access error is recorded (R189). -/
theorem erraddrWord_eq_zero {s : State} (h : RecordOk s) (hacc : s.accErr = false) :
    erraddrWord s = 0#32 := by
  obtain ⟨_, hrecord⟩ := h
  obtain ⟨haddr, hwe⟩ := hrecord hacc
  rw [erraddrWord, haddr, hwe]
  rfl

/-- Settles O36, by the fields of `erraddrWord`; an empty record is 0 by the invariant. -/
theorem erraddrReadAnswersTheRecord : Obligations.ErraddrReadAnswersTheRecord := by
  intro s d
  obtain ⟨haddr, hwe, hreserved⟩ := erraddrWord_fields s
  refine ⟨decode_packTxn_of_class (decodeFields_erraddrAddr false d), erraddrWord s, rfl,
    haddr, hwe, hreserved, fun hinv => ?_⟩
  obtain ⟨_, _, hrecord, _⟩ := hinv
  exact erraddrWord_eq_zero hrecord

/-! ## Writes of the configuration and the enables (R180 to R186) -/

section

variable {s : State} (addr : Addr) (store : State → State)

/-- A frozen register of the idle block is written (R170). -/
theorem writeFrozen_of_idle (hidle : s.phase = .idle) :
    writeFrozen addr store s = .next (answeredState 0#32 (store s)) := by
  rcases writeFrozen_cases addr store s with ⟨hbusy, _⟩ | ⟨_, he⟩
  · exact absurd hidle ((busy_eq_true_iff s).mp hbusy)
  · exact he

/-- A frozen register is refused with BUSY during an operation (R170, R258). -/
theorem writeFrozen_of_busy (hphase : s.phase ≠ .idle) :
    writeFrozen addr store s = .next (refusedState .busy true addr s) := by
  rcases writeFrozen_cases addr store s with ⟨_, he⟩ | ⟨hbusy, _⟩
  · exact he.trans (raiseAccessError_eq_refusedState _ _ _ _)
  · exact absurd ((busy_eq_false_iff s).mp hbusy) hphase

end

theorem exec_wrWidth (width : Dim) (s : State) :
    exec (.wrWidth width) s = writeFrozen widthAddr (fun t => { t with widthR := width }) s := rfl

theorem exec_wrHeight (height : Dim) (s : State) :
    exec (.wrHeight height) s = writeFrozen heightAddr (fun t => { t with heightR := height }) s := rfl

theorem exec_wrLayout (layout : BitVec 8) (s : State) :
    exec (.wrLayout layout) s = writeFrozen layoutAddr (fun t => { t with layoutR := layout }) s := rfl

/-- Settles O39: the three registers are frozen during an operation. -/
theorem configurationWritesStoreWhenIdle : Obligations.ConfigurationWritesStoreWhenIdle := by
  intro s d
  rw [BitVec.setWidth_eq_extractLsb' (by decide), BitVec.setWidth_eq_extractLsb' (by decide)]
  refine ⟨decode_packTxn_of_class (decodeFields_widthAddr true d),
    decode_packTxn_of_class (decodeFields_heightAddr true d),
    decode_packTxn_of_class (decodeFields_layoutAddr true d), fun hidle => ?_, fun hphase => ?_⟩
  · simp [exec_wrWidth, exec_wrHeight, exec_wrLayout, writeFrozen_of_idle _ _ hidle]
  · simp [exec_wrWidth, exec_wrHeight, exec_wrLayout, writeFrozen_of_busy _ _ hphase, widthAddr,
      heightAddr, layoutAddr]

/-- Settles O40: IRQEN is not frozen, and `irq` reads the enables just stored. -/
theorem irqenWriteTakesEffectAtOnce : Obligations.IrqenWriteTakesEffectAtOnce := fun _ d _ _ _ =>
  ⟨decode_packTxn_of_class (decodeFields_irqenAddr true d), rfl, rfl⟩

/-! ## Writes that are always refused (R172, R178, R188, R190, R204) -/

/-- The offset of RGB cell `i` as a number (R61). -/
theorem rgbAddr_eq_ofNat (i : CellIndex) :
    rgbAddr i = BitVec.ofNat 24 (0x800000 + 4 * i.toNat) := by
  apply BitVec.eq_of_toNat_eq
  simp only [rgbAddr, BitVec.toNat_append, BitVec.toNat_ofNat]
  rw [← Nat.shiftLeft_add_eq_or_of_lt i.isLt, ← Nat.shiftLeft_add_eq_or_of_lt (by omega)]
  omega

/-- The class of a word at RGB cell `i` (R83 step 4). -/
theorem decode_rgbWord (we : Bool) (i : CellIndex) (d : Word) :
    decode (packTxn we (BitVec.ofNat 24 (0x800000 + 4 * i.toNat)) d) =
      if we then .wrRgb i else .rdRgb i := by
  rw [← rgbAddr_eq_ofNat, decode_packTxn, decodeFields_rgbAddr]

/-- Settles O37: each of the five writes raises READ_ONLY at its own offset, whatever the state. -/
theorem readOnlyWritesAreRefused : Obligations.ReadOnlyWritesAreRefused := by
  intro s d
  have hraise := fun addr => raiseAccessError_eq_refusedState .readOnly true addr s
  refine ⟨decode_packTxn_of_class (decodeFields_idAddr true d),
    decode_packTxn_of_class (decodeFields_statusAddr true d),
    decode_packTxn_of_class (decodeFields_capacityAddr true d),
    decode_packTxn_of_class (decodeFields_erraddrAddr true d),
    hraise idAddr, hraise statusAddr, hraise capacityAddr, hraise erraddrAddr,
    fun i => ⟨decode_rgbWord true i d, ?_⟩⟩
  rw [← rgbAddr_eq_ofNat]
  exact hraise (rgbAddr i)

end Sys2Proof.Machine

/-! # The statements about the host windows -/

namespace Sys2Proof.Machine

open Sys2Proof Host

/-! ## Window accesses (R200, R205, R206) -/

section

variable {s : State} {i : CellIndex} (we : Bool) (addr : Addr)
  (effect : State → Outcome State Fault Refusal)

/-- A window access beyond the memory is refused with RANGE, whatever the phase (R205, R206). -/
theorem windowAccess_of_out_of_range (hi : s.memPixels ≤ i.toNat) :
    windowAccess we addr i effect s = .next (refusedState .range we addr s) := by
  have hno : ¬ cellExists s i = true := fun h => absurd ((cellExists_iff s i).mp h) (by omega)
  rw [windowAccess, if_neg hno, raiseAccessError_eq_refusedState]

/-- A window access to a cell is refused with BUSY during an operation (R205). -/
theorem windowAccess_of_busy (hi : i.toNat < s.memPixels) (hphase : s.phase ≠ .idle) :
    windowAccess we addr i effect s = .next (refusedState .busy we addr s) := by
  rw [windowAccess, if_pos ((cellExists_iff s i).mpr hi), if_pos ((busy_eq_true_iff s).mpr hphase),
    raiseAccessError_eq_refusedState]

end

theorem sampleWord_eq_append (v : Byte) : sampleWord v = 0#24 ++ v :=
  BitVec.setWidth_eq_append (by decide)

section

variable {s : State} {i : CellIndex}

theorem exec_rdMosaic_of_unwritten (hi : i.toNat < s.memPixels) (hidle : s.phase = .idle)
    (hnone : mosaicRead s i.toNat = none) : exec (.rdMosaic i) s = .fault .unwrittenMosaicRead := by
  rw [exec, execRdMosaic, windowAccess_of_idle _ _ _ hi hidle, hnone]

theorem exec_rdRgb_of_written {p : Pixel} (hi : i.toNat < s.memPixels) (hidle : s.phase = .idle)
    (hp : rgbRead s i.toNat = some p) :
    exec (.rdRgb i) s = .next (answeredState (pixelWord p) s) := by
  rw [exec, execRdRgb, windowAccess_of_idle _ _ _ hi hidle, hp]
  rfl

theorem exec_rdRgb_of_unwritten (hi : i.toNat < s.memPixels) (hidle : s.phase = .idle)
    (hnone : rgbRead s i.toNat = none) : exec (.rdRgb i) s = .fault .unwrittenRgbRead := by
  rw [exec, execRdRgb, windowAccess_of_idle _ _ _ hi hidle, hnone]

end

/-! ## The obligations -/

/-- Settles O47: the write is `mosaicWrite` of its one cell, behind the two refusals of a window access. -/
theorem mosaicWriteStoresOneCell : Obligations.MosaicWriteStoresOneCell := by
  intro s i v d
  rw [BitVec.setWidth_eq_extractLsb' (by decide)]
  refine ⟨decode_mosaicWord true i d, fun hi hidle => ?_, ?_⟩
  · exact ⟨_, exec_wrMosaic_of_idle v hi hidle, mosaicRead_mosaicWrite_same v hi,
      fun _ => mosaicRead_mosaicWrite_other (s := s) v, fun _ => rfl, rfl⟩
  · rw [← mosaicAddr_eq_ofNat, exec, execWrMosaic]
    exact ⟨windowAccess_of_out_of_range _ _ _, windowAccess_of_busy _ _ _⟩

/-- Settles O48: a written cell is answered and an unwritten one is a fault, behind the two refusals of a window
access. -/
theorem mosaicReadAnswersTheSample : Obligations.MosaicReadAnswersTheSample := by
  intro s i d
  refine ⟨decode_mosaicWord false i d, fun v hi hidle hv => ?_, exec_rdMosaic_of_unwritten, ?_⟩
  · rw [← sampleWord_eq_append]
    exact exec_rdMosaic_of_written hi hidle hv
  · rw [← mosaicAddr_eq_ofNat, exec, execRdMosaic]
    exact ⟨windowAccess_of_out_of_range _ _ _, windowAccess_of_busy _ _ _⟩

/-- Settles O49: as O48, the answer packed by `pixelWord` (R66). -/
theorem rgbReadAnswersThePixel : Obligations.RgbReadAnswersThePixel := by
  intro s i d
  refine ⟨decode_rgbWord false i d, fun _ => exec_rdRgb_of_written, exec_rdRgb_of_unwritten, ?_⟩
  rw [← rgbAddr_eq_ofNat, exec, execRdRgb]
  exact ⟨windowAccess_of_out_of_range _ _ _, windowAccess_of_busy _ _ _⟩

end Sys2Proof.Machine

/-! # The statements about the exceptions -/

namespace Sys2Proof.Machine

open Sys2Proof Host

/-! ## The classes of illegal transactions (R224, R225) -/

/-- A byte offset as a number, from its word part and its low bits (R63). -/
theorem slotAddr_eq_ofNat (slot : WordSlot) (low : BitVec 2) :
    slotAddr slot low = BitVec.ofNat 24 (4 * slot.toNat + low.toNat) := by
  apply BitVec.eq_of_toNat_eq
  simp only [slotAddr, BitVec.toNat_append, BitVec.toNat_ofNat]
  rw [← Nat.shiftLeft_add_eq_or_of_lt low.isLt]
  omega

/-- The register offsets end at ERRADDR (R61). -/
theorem toNat_le_of_isRegisterAddr {a : Addr} (h : isRegisterAddr a = true) : a.toNat ≤ 0x20 := by
  rcases (isRegisterAddr_iff a).mp h with rfl | rfl | rfl | rfl | rfl | rfl | rfl | rfl | rfl <;>
    decide

/-- An aligned offset after the registers and before the windows, or after them, is unmapped (R225). -/
theorem isUnmappedAddr_of_toNat {a : Addr} (hlow : lowBits a = 0#2)
    (h : (0x24 ≤ a.toNat ∧ a.toNat ≤ 0x3FFFFF) ∨ 0xC00000 ≤ a.toNat) : isUnmappedAddr a = true := by
  rcases addr_cases a with hmis | hreg | ⟨i, rfl⟩ | ⟨i, rfl⟩ | hun
  · exact absurd hlow hmis
  · have hle := toNat_le_of_isRegisterAddr hreg
    omega
  · rw [mosaicAddr_eq_ofNat, BitVec.toNat_ofNat] at h
    omega
  · rw [rgbAddr_eq_ofNat, BitVec.toNat_ofNat] at h
    omega
  · exact hun

/-- Settles O6: the word's offset is of no region, so its class is ERR_UNMAPPED. -/
theorem unmappedWordsAreRefused : Obligations.UnmappedWordsAreRefused := by
  intro t s hlow hrange
  rw [decode, decodeFields_unmapped (isUnmappedAddr_of_toNat hlow hrange)]
  exact raiseAccessError_eq_refusedState _ _ _ _

/-- Settles O38: each class raises its cause at the offset its operands give. -/
theorem illegalClassesAreRefused : Obligations.IllegalClassesAreRefused := by
  intro s we slot addr
  have hraise : ∀ low, raiseAccessError .misaligned we (slotAddr slot low) s =
      .next (refusedState .misaligned we (BitVec.ofNat 24 (4 * slot.toNat + low.toNat)) s) := by
    intro low
    rw [raiseAccessError_eq_refusedState, slotAddr_eq_ofNat]
  exact ⟨hraise 1#2, hraise 2#2, hraise 3#2, raiseAccessError_eq_refusedState _ _ _ _⟩

/-! ## Access errors are precise (R223) -/

/-- A transaction is refused and leaves what Safety.lean writes out, or it responds OKAY (R81, R223). -/
theorem TransactionEffect.refused_or_okay {i : Instr} {s t : State} (h : TransactionEffect i s t) :
    (∃ cause, cause ≠ AccCause.none ∧ t = refusedState cause (isWrite i) (offsetOf i) s) ∨
      ∃ rdata, t.responses = s.responses ++ [⟨.okay, rdata⟩] := by
  cases h with
  | refused cause hcause =>
    exact .inl ⟨cause, hcause, Outcome.next.inj (raiseAccessError_eq_refusedState _ _ _ s)⟩
  | answered rdata => exact .inr ⟨rdata, rfl⟩
  | controlled | started | configured | enabled | sampled => exact .inr ⟨0#32, by simp⟩

/-- An enabled access error raises irq (R43). -/
theorem irq_of_accErr {s : State} (hie : s.accIe = true) (herr : s.accErr = true) :
    irq s = true := by
  simp [irq, hie, herr]

/-- Settles O52: of the effects of a transaction, only the refusal responds ERROR. -/
theorem accessErrorsArePrecise : Obligations.AccessErrorsArePrecise := by
  intro i s t d h hresp
  rcases (exec_effect h).refused_or_okay with ⟨cause, hcause, rfl⟩ | ⟨rdata, hokay⟩
  · exact ⟨⟨cause, hcause, rfl⟩, fun hie => irq_of_accErr hie rfl⟩
  · rw [hokay] at hresp
    simp at hresp

/-! ## A turn of the ENGINE goes on or finds an unwritten sample (R130, R229) -/

/-- Under the invariant a turn of the ENGINE goes on, or it is a PIXEL_STEP that finds one of its nine cells
unwritten (R130). -/
theorem engineTurn_next_or_unwrittenSample {s : State} (hinv : BlockInv s) :
    (∃ t, engineTurn s = .next t) ∨
      (engineTurn s = .fault .unwrittenSample ∧ s.phase = .scan ∧
        WindowHasUnwritten s s.sy.toNat s.sx.toNat) := by
  cases hphase : s.phase with
  | idle => exact .inl ⟨s, by rw [engineTurn, hphase]⟩
  | clear => exact .inl ⟨_, engineTurn_of_clear hinv hphase⟩
  | scan =>
    have hin := scanPixel_isInterior hinv hphase
    obtain ⟨hy, _, hx, _⟩ := (isInterior_iff _ _ _).mp hin
    cases hp : pixelAt s s.sy.toNat s.sx.toNat with
    | some p => exact .inl ⟨_, engineTurn_of_pixelAt hinv hphase hp⟩
    | none =>
      have hwindow := (pixelAt_eq_none_iff hy hx).mp hp
      exact .inr
        ⟨(pixelStepFaultsExactlyOnUnwrittenSample s hinv hphase).mpr hwindow, rfl, hwindow⟩

/-- With the mosaic loaded no interior window has an unwritten cell (R130, R255). -/
theorem not_windowHasUnwritten_of_mosaicLoaded {s : State} (hloaded : MosaicLoaded s) {y x : Nat}
    (hin : isInterior s y x = true) : ¬ WindowHasUnwritten s y x := by
  obtain ⟨hy, _, hx, _⟩ := (isInterior_iff s y x).mp hin
  obtain ⟨win, hwin⟩ := exists_isWindow_of_mosaicLoaded hloaded hin
  rw [← pixelAt_eq_none_iff hy hx, pixelAt_of_isWindow hwin]
  exact nofun

/-- Settles O25: the turn that goes on keeps the ENGINE's frame, and an operation in progress has no code in ERR. -/
theorem engineRaisesNoHardwareError : Obligations.EngineRaisesNoHardwareError := by
  intro s hinv hbusy
  have hturn := engineTurn_next_or_unwrittenSample hinv
  refine ⟨?_, fun hloaded => hturn.resolve_right fun ⟨_, hphase, hwindow⟩ =>
    not_windowHasUnwritten_of_mosaicLoaded hloaded (scanPixel_isInterior hinv hphase) hwindow⟩
  obtain ⟨_, _, _, ⟨hflags, _⟩, _⟩ := hinv
  obtain ⟨_, herr⟩ := hflags hbusy
  rcases hturn with ⟨t, ht⟩ | ⟨hfault, _⟩
  · have hframe := engineTurn_frame ht
    exact .inl ⟨t, ht, hframe.err.trans herr, hframe.accErr, hframe.accCause, hframe.errAddr,
      hframe.errWe, hframe.responses⟩
  · exact .inr hfault

/-! ## The stops (R239) -/

section

variable {s : State} {f : Fault}

theorem writeFrozen_ne_fault {addr : Addr} {store : State → State} :
    writeFrozen addr store s ≠ .fault f := by
  rcases writeFrozen_cases addr store s with ⟨_, he⟩ | ⟨_, he⟩ <;> rw [he] <;> exact nofun

theorem execWrCtrl_ne_fault {start clear : Bool} : execWrCtrl start clear s ≠ .fault f := by
  rcases execWrCtrl_cases start clear s with ⟨_, _, he⟩ | ⟨_, he⟩ <;> rw [he] <;> exact nofun

/-- A window access stops only in its effect: its refusals go on (R205, R206). -/
theorem effect_eq_fault_of_windowAccess {we : Bool} {addr : Addr} {index : CellIndex}
    {effect : State → Outcome State Fault Refusal}
    (h : windowAccess we addr index effect s = .fault f) : effect s = .fault f := by
  rcases windowAccess_cases we addr index effect s with ⟨_, he⟩ | ⟨_, _, he⟩ | ⟨_, _, he⟩ <;>
    rw [he] at h
  · exact nomatch h
  · exact nomatch h
  · exact h

theorem execRdMosaic_eq_fault {index : CellIndex} (h : execRdMosaic index s = .fault f) :
    f = .unwrittenMosaicRead ∧ mosaicRead s index.toNat = none := by
  have he := effect_eq_fault_of_windowAccess h
  cases hv : mosaicRead s index.toNat with
  | none => exact ⟨by simpa [hv, eq_comm] using he, rfl⟩
  | some v => simp [hv, answerOkay] at he

theorem execRdRgb_eq_fault {index : CellIndex} (h : execRdRgb index s = .fault f) :
    f = .unwrittenRgbRead ∧ rgbRead s index.toNat = none := by
  have he := effect_eq_fault_of_windowAccess h
  cases hv : rgbRead s index.toNat with
  | none => exact ⟨by simpa [hv, eq_comm] using he, rfl⟩
  | some p => simp [hv, answerOkay] at he

/-- The only transactions that stop the block are the window reads of an unwritten cell (R201, R203). -/
theorem exec_eq_fault {i : Instr} (h : exec i s = .fault f) :
    (f = .unwrittenMosaicRead ∧ ∃ k, i = .rdMosaic k ∧ mosaicRead s k.toNat = none) ∨
      (f = .unwrittenRgbRead ∧ ∃ k, i = .rdRgb k ∧ rgbRead s k.toNat = none) := by
  cases i with
  | rdId | rdCtrl | rdStatus | rdWidth | rdHeight | rdLayout | rdIrqen | rdCapacity | rdErraddr
  | wrIrqen | wrId | wrStatus | wrCapacity | wrErraddr | wrRgb | errMisaligned1 | errMisaligned2
  | errMisaligned3 | errUnmapped => exact nomatch h
  | wrCtrl => exact absurd h execWrCtrl_ne_fault
  | wrWidth | wrHeight | wrLayout =>
    simp only [exec_wrWidth, exec_wrHeight, exec_wrLayout] at h
    exact absurd h writeFrozen_ne_fault
  | wrMosaic =>
    rw [exec, execWrMosaic] at h
    exact nomatch effect_eq_fault_of_windowAccess h
  | rdMosaic k =>
    obtain ⟨hf, hnone⟩ := execRdMosaic_eq_fault h
    exact .inl ⟨hf, k, rfl, hnone⟩
  | rdRgb k =>
    obtain ⟨hf, hnone⟩ := execRdRgb_eq_fault h
    exact .inr ⟨hf, k, rfl, hnone⟩

/-- Under the invariant the only stop of the ENGINE is on an unwritten sample, in the scan (R130). -/
theorem engineTurn_eq_fault (hinv : BlockInv s) (h : engineTurn s = .fault f) :
    f = .unwrittenSample ∧ s.phase = .scan ∧ WindowHasUnwritten s s.sy.toNat s.sx.toNat := by
  rcases engineTurn_next_or_unwrittenSample hinv with ⟨t, ht⟩ | ⟨hfault, hphase, hwindow⟩
  · exact nomatch ht.symm.trans h
  · exact ⟨Outcome.fault.inj (h.symm.trans hfault), hphase, hwindow⟩

end

/-- Settles O56, by the kind of the next event; a run that stops at its first step stays stopped. -/
theorem stopsAreTheModelFaults : Obligations.StopsAreTheModelFaults := by
  intro s f hinv h
  refine ⟨?_, runSteps_succ_fault h⟩
  rcases step_cases s with ⟨w, hev, he⟩ | ⟨hev, he⟩ | ⟨_, he⟩ <;> rw [he] at h
  · rcases exec_eq_fault h with ⟨hf, k, hi, hnone⟩ | ⟨hf, k, hi, hnone⟩
    · exact .inr (.inl ⟨hf, w, k, hev, hi, hnone⟩)
    · exact .inr (.inr ⟨hf, w, k, hev, hi, hnone⟩)
  · obtain ⟨hf, hphase, hwindow⟩ := engineTurn_eq_fault (blockInv_dropEvent hinv) h
    exact .inl ⟨hf, hev, hphase, hwindow⟩
  · exact nomatch h

end Sys2Proof.Machine

/-! # Reset and hazards -/

namespace Sys2Proof.Machine

open Sys2Proof Host

/-! ## Reset (R250, R251, R253) -/

@[simp] theorem mosaicRead_resetBlock (s : State) (i : Nat) : mosaicRead (resetBlock s) i = none := by
  rw [mosaicRead, resetBlock_mosaic, reset_mosaic, Memory.read_nil, ite_self]

@[simp] theorem rgbRead_resetBlock (s : State) (i : Nat) : rgbRead (resetBlock s) i = none := by
  rw [rgbRead, resetBlock_rgb, reset_rgb, Memory.read_nil, ite_self]

/-- STATUS reads 0 after a reset (R251). -/
theorem statusWord_resetBlock (s : State) : statusWord (resetBlock s) = 0#32 := by
  simp [statusWord, errCode, causeCode]

/-- ConfigCheck finds the image of a reset block empty (R227, R251). -/
theorem configCheck_resetBlock (s : State) : configCheck (resetBlock s) = .zeroDim :=
  configCheck_eq_zeroDim (.inl rfl)

theorem step_of_reset {s : State} {rest : List Event} (h : s.events = .reset :: rest) :
    step s = .next (resetBlock (dropEvent s)) := by
  rw [step, nextEvent_cons h]

/-- Settles O9: the step is `resetBlock`, whose fields are the values of R251. -/
theorem resetEventRestoresTheResetState : Obligations.ResetEventRestoresTheResetState := by
  intro s rest h
  refine ⟨_, step_of_reset h, rfl, rfl, rfl, rfl, rfl, rfl, rfl, rfl, rfl, rfl, rfl, rfl, rfl, rfl, rfl,
    rfl, rfl, rfl, mosaicRead_resetBlock _, rgbRead_resetBlock _, ?_, rfl, rfl, rfl, ?_⟩
  · rw [← statusWord_resetBlock (dropEvent s)]
    rfl
  · exact ⟨_, exec_start_of_rejected false rfl (configCheck_resetBlock _) (by decide), rfl, rfl⟩

/-- Settles O10: each field as `State.reset` writes it, and the range of the parameter. -/
theorem resetStateIsAsSpecified : Obligations.ResetStateIsAsSpecified := by
  obtain ⟨hleast, hmost⟩ := config_memPixels_range
  exact ⟨rfl, rfl, rfl, rfl, rfl, rfl, rfl, rfl, rfl, rfl, rfl, rfl, rfl, rfl, rfl, rfl, rfl, hleast,
    hmost, mosaicRead_reset, rgbRead_reset⟩

/-- Settles O11: the reset block is idle, its memories are empty and no error is recorded. -/
theorem invariantHoldsAtReset : Obligations.InvariantHoldsAtReset :=
  blockInv_of_idle rfl config_memPixels_range ⟨rfl, rfl, rfl, rfl⟩ ⟨by simp, by simp⟩ (by simp)

/-! ## Transactions during an operation (R258) -/

section

variable {s t : State} {i : Instr}

/-- A transaction that finds the block busy leaves the ENGINE where it is (R258). -/
theorem TransactionEffect.position (h : TransactionEffect i s t) (hbusy : busy s = true) :
    t.phase = s.phase ∧ t.cidx = s.cidx ∧ t.sy = s.sy ∧ t.sx = s.sx := by
  cases h with
  | refused => rw [recordAccessError_frame]; exact ⟨rfl, rfl, rfl, rfl⟩
  | controlled clear _ => cases clear <;> exact ⟨rfl, rfl, rfl, rfl⟩
  | answered | enabled => exact ⟨rfl, rfl, rfl, rfl⟩
  | started _ _ hidle | configured _ _ _ _ hidle | sampled _ _ _ _ hidle => simp [hbusy] at hidle

/-- A transaction uses none of the ENGINE's steps (R154, R258). -/
theorem TransactionEffect.stepsLeft_eq (h : TransactionEffect i s t) (hbusy : busy s = true) :
    stepsLeft t = stepsLeft s := by
  obtain ⟨hphase, hcidx, hsy, hsx⟩ := h.position hbusy
  have hsame := h.sameInputs hbusy
  simp only [stepsLeft, operationSteps, imagePixels, hphase, hcidx, hsy, hsx, hsame.widthR,
    hsame.heightR]

/-- A write of a MOSAIC cell that exists is refused with BUSY during an operation (R202, R258). -/
theorem exec_wrMosaic_of_busy {k : CellIndex} (v : Byte) (hk : k.toNat < s.memPixels)
    (hphase : s.phase ≠ .idle) :
    exec (.wrMosaic k v) s = .next (refusedState .busy true (mosaicAddr k) s) := by
  rw [exec, execWrMosaic, windowAccess_of_busy _ _ _ hk hphase]

/-- No window access has its effect during an operation, so none stops the block (R205, R206). -/
theorem windowAccess_ne_fault_of_busy {we : Bool} {addr : Addr} {index : CellIndex}
    {effect : State → Outcome State Fault Refusal} {f : Fault} (hbusy : busy s = true) :
    windowAccess we addr index effect s ≠ .fault f := by
  rcases windowAccess_cases we addr index effect s with ⟨_, he⟩ | ⟨_, _, he⟩ | ⟨_, hidle, _⟩
  · rw [he]; exact nofun
  · rw [he]; exact nofun
  · simp [hbusy] at hidle

/-- During an operation every transaction has its response (R67, R258). -/
theorem exec_next_of_busy (i : Instr) (hbusy : busy s = true) : ∃ t, exec i s = .next t := by
  cases h : exec i s with
  | next t => exact ⟨t, rfl⟩
  | fault f =>
    rcases exec_eq_fault h with ⟨_, k, rfl, _⟩ | ⟨_, k, rfl, _⟩
    · rw [exec, execRdMosaic] at h
      exact absurd h (windowAccess_ne_fault_of_busy hbusy)
    · rw [exec, execRdRgb] at h
      exact absurd h (windowAccess_ne_fault_of_busy hbusy)
  | refused r => exact absurd h (exec_ne_refused i)

end

/-- Settles O53: by the effects of a transaction, and by the BUSY refusal of each of the listed writes. -/
theorem transactionsLeaveARunningOperationAlone :
    Obligations.TransactionsLeaveARunningOperationAlone := by
  refine ⟨fun i s t hbusy h => ?_, fun s i hbusy hi => ?_⟩
  · have heff := exec_effect h
    obtain ⟨hmem, hw, hh, hl, hmosaic⟩ := heff.sameInputs hbusy
    obtain ⟨hphase, hcidx, hsy, hsx⟩ := heff.position hbusy
    exact ⟨hw, hh, hl, hmosaic, heff.rgb, hphase, hcidx, hsy, hsx, hmem, heff.events⟩
  · have hphase := (busy_eq_true_iff s).mp hbusy
    rcases hi with ⟨w, rfl⟩ | ⟨h, rfl⟩ | ⟨l, rfl⟩ | ⟨k, v, rfl, hk⟩ | ⟨c, rfl⟩ <;>
      rw [offsetOf_of_encode rfl]
    · exact (exec_wrWidth w s).trans (writeFrozen_of_busy _ _ hphase)
    · exact (exec_wrHeight h s).trans (writeFrozen_of_busy _ _ hphase)
    · exact (exec_wrLayout l s).trans (writeFrozen_of_busy _ _ hphase)
    · exact exec_wrMosaic_of_busy v hk hphase
    · exact startWhileBusyIsRefused s c hphase

/-! ## A START leaves its mark in STATUS (R259) -/

/-- What every step keeps, a run keeps. -/
theorem runSteps_keeps {P : State → Prop} (hstep : ∀ s t, P s → step s = .next t → P t) {n : Nat}
    {s t : State} (hs : P s) (h : runSteps n s = .next t) : P t := by
  induction n generalizing s with
  | zero => exact Outcome.next.inj h ▸ hs
  | succ n ih =>
    cases hu : step s with
    | next u => exact ih (hstep s u hs hu) (by rwa [← runSteps_succ_next hu])
    | fault f => exact nomatch (runSteps_succ_fault hu n).symm.trans h
    | refused r => exact absurd hu (noStepIsRefused s r)

/-- STATUS shows what became of a START: BUSY, DONE or an error code (R259). -/
def ShowsStart (s : State) : Prop := busy s = true ∨ s.done = true ∨ s.err ≠ .none

theorem showsStart_doStart (s : State) : ShowsStart (doStart s) := by
  rcases doStart_cases s with ⟨_, he⟩ | ⟨hcode, he⟩ <;> rw [he]
  · exact .inl rfl
  · exact .inr (.inr hcode)

/-- The ENGINE's turn that ends BUSY sets DONE, and no turn touches ERR (R149, R150). -/
theorem showsStart_engineTurn {s t : State} (hs : ShowsStart s) (h : engineTurn s = .next t) :
    ShowsStart t := by
  have herr := (engineTurn_frame h).err
  rcases engineTurn_phase_done h with ⟨hphase, hdone⟩ | ⟨_, hscan, _⟩ | ⟨_, _, hdone⟩
  · rwa [ShowsStart, busy_congr hphase, hdone, herr]
  · exact .inl ((busy_eq_true_iff t).mpr (by simp [hscan]))
  · exact .inr (.inl hdone)

/-- Of the flags that show a START the invariant lets one stand alone (R177). -/
theorem ShowsStart.exactly_one {s : State} (h : ShowsStart s) (hflags : FlagsOk s) :
    (busy s = true ∧ s.done = false ∧ s.err = .none) ∨
      (busy s = false ∧ s.done = true ∧ s.err = .none) ∨
      (busy s = false ∧ s.done = false ∧ s.err ≠ .none) := by
  obtain ⟨hbusy, hdone⟩ := hflags
  cases hb : busy s with
  | true => exact .inl ⟨rfl, hbusy hb⟩
  | false =>
    cases hd : s.done with
    | true => exact .inr (.inl ⟨rfl, rfl, hdone hd⟩)
    | false => exact .inr (.inr ⟨rfl, rfl, by simpa [ShowsStart, hb, hd] using h⟩)

/-- A block that shows a START, under the invariant and with no event to come. -/
structure ShowsStartQuietly (s : State) : Prop where
  inv : BlockInv s
  events : s.events = []
  shows : ShowsStart s

theorem showsStartQuietly_step {s t : State} (hs : ShowsStartQuietly s) (h : step s = .next t) :
    ShowsStartQuietly t := by
  obtain ⟨hinv, hevents, hshows⟩ := hs
  refine ⟨everyStepKeepsTheInvariant s t hinv h, by rw [step_events h, hevents, List.tail_nil], ?_⟩
  obtain ⟨_, hnil, _⟩ := engineTurnsWhenScheduled
  exact showsStart_engineTurn hshows ((hnil s hevents).symm.trans h)

/-- Settles O46: START shows at once, and each turn of the ENGINE keeps it shown. -/
theorem startIsNeverLost : Obligations.StartIsNeverLost := by
  intro s s₁ t c n hinv hidle hstart hrun
  have hinv₁ : BlockInv s₁ := (exec_effect hstart).keeps_blockInv hinv
  have hshows : ShowsStart s₁ := by
    rw [exec_start_of_idle c hidle] at hstart
    obtain rfl := Outcome.next.inj hstart
    exact showsStart_doStart _
  have hquiet : ShowsStartQuietly { s₁ with events := [] } := ⟨hinv₁, rfl, hshows⟩
  obtain ⟨⟨_, _, _, hflags, _⟩, _, hend⟩ :=
    runSteps_keeps (fun _ _ => showsStartQuietly_step) hquiet hrun
  exact hend.exactly_one hflags

/-! ## An operation on a loaded mosaic finishes (R255) -/

section

variable {s t : State}

theorem SameInputs.mosaicLoaded_after (h : SameInputs s t) (hloaded : MosaicLoaded s) :
    MosaicLoaded t := by
  intro i hi
  rw [imagePixels, h.widthR, h.heightR] at hi
  rw [mosaicRead_congr h.memPixels h.mosaic]
  exact hloaded i hi

/-- A step of a loaded operation goes on: it uses an event that is not the ENGINE's turn, or one of the ENGINE's
steps (R140, R154, R255). -/
theorem step_of_loaded (hinv : BlockInv s) (hbusy : busy s = true) (hloaded : MosaicLoaded s)
    (hreset : nextEvent s ≠ .reset) :
    ∃ t, step s = .next t ∧
      ((0 < s.events.length ∧ stepsLeft t = stepsLeft s) ∨ stepsLeft t + 1 = stepsLeft s) := by
  rcases step_cases s with ⟨w, hev, he⟩ | ⟨_, he⟩ | ⟨hev, _⟩
  · obtain ⟨t, ht⟩ := exec_next_of_busy (s := dropEvent s) (decode w) hbusy
    refine ⟨t, he.trans ht, .inl ⟨List.length_pos_iff.mpr fun hnil => ?_,
      (exec_effect ht).stepsLeft_eq hbusy⟩⟩
    exact nomatch hev.symm.trans (nextEvent_nil hnil)
  · obtain ⟨_, hgoes⟩ := engineRaisesNoHardwareError (dropEvent s) (blockInv_dropEvent hinv) hbusy
    obtain ⟨t, ht⟩ := hgoes hloaded
    obtain ⟨huses, _⟩ := eachEngineTurnUsesOneStepOfTheBound
    exact ⟨t, he.trans ht, .inr (huses (dropEvent s) t (blockInv_dropEvent hinv) hbusy ht)⟩
  · exact absurd hev hreset

/-- A busy step before a run to the end of the operation is the first step of a longer one. -/
theorem FinishesAfter.cons {n : Nat} {u : State} (hreset : Event.reset ∉ s.events)
    (hbusy : busy s = true) (hs : step s = .next u) (h : FinishesAfter n u t) :
    FinishesAfter (n + 1) s t := by
  obtain ⟨_, hbefore, hlast, hidle⟩ := h
  refine ⟨hreset, fun k hk => ?_, by rwa [runSteps_succ_next hs], hidle⟩
  cases k with
  | zero => exact ⟨s, rfl, hbusy⟩
  | succ k =>
    rw [runSteps_succ_next hs]
    exact hbefore k (Nat.lt_of_succ_lt_succ hk)

/-- By induction on the events to come and the ENGINE's steps left, which together fall at every step. -/
theorem finishesAfter_of_loaded (hinv : BlockInv s) (hloaded : MosaicLoaded s)
    (hreset : Event.reset ∉ s.events) :
    ∃ n t, FinishesAfter n s t ∧ n ≤ s.events.length + stepsLeft s ∧
      (s.events = [] → n = stepsLeft s) := by
  induction hm : s.events.length + stepsLeft s using Nat.strong_induction_on generalizing s with
  | _ m ih =>
  cases hbusy : busy s with
  | false =>
    have hzero := stepsLeft_of_idle ((busy_eq_false_iff s).mp hbusy)
    exact ⟨0, s, ⟨hreset, nofun, rfl, hbusy⟩, Nat.zero_le _, fun _ => hzero.symm⟩
  | true =>
    have hnext := nextEvent_ne_reset hreset
    obtain ⟨u, hs, huses⟩ := step_of_loaded hinv hbusy hloaded hnext
    have hevents := step_events hs
    have hlength : u.events.length = s.events.length - 1 := by rw [hevents, List.length_tail]
    obtain ⟨n, t, hfin, hle, heq⟩ := ih (u.events.length + stepsLeft u) (by omega)
      (everyStepKeepsTheInvariant s u hinv hs)
      ((step_sameInputs hbusy hnext hs).mosaicLoaded_after hloaded)
      (fun hmem => hreset (List.mem_of_mem_tail (hevents ▸ hmem))) rfl
    refine ⟨n + 1, t, hfin.cons hreset hbusy hs, by omega, fun hnil => ?_⟩
    rw [heq (by rw [hevents, hnil, List.tail_nil])]
    exact huses.resolve_left fun ⟨hpos, _⟩ => by simp [hnil] at hpos

end

/-- Settles O29: START leaves a loaded operation with all its steps before it, and no event of its own. -/
theorem loadedOperationFinishes : Obligations.LoadedOperationFinishes := by
  intro s c hinv hidle hvalid hloaded hreset
  obtain ⟨s₁, hstart⟩ : ∃ s₁, exec (.wrCtrl true c) s = .next s₁ := ⟨_, exec_start_of_idle c hidle⟩
  obtain ⟨hclear, hsame⟩ := exec_start_of_valid hidle hvalid hstart
  have heff := exec_effect hstart
  have hinv₁ : BlockInv s₁ := heff.keeps_blockInv hinv
  have hbusy : busy s₁ = true := (busy_eq_true_iff s₁).mpr (by simp [hclear])
  obtain ⟨n, t, hfin, hle, heq⟩ :=
    finishesAfter_of_loaded hinv₁ (hsame.mosaicLoaded_after hloaded) (by rwa [heff.events])
  rw [heff.events, stepsLeft_of_start hidle hvalid hstart] at hle heq
  exact ⟨s₁, hstart, hbusy, n, t, hfin, (operationResult_of_finishesAfter hinv₁ hbusy hfin).done, hle,
    heq⟩

end Sys2Proof.Machine
